-- ==== Sys2Proof/Word.lean ====
section
/-! DEFINITION. Octets, the units of the host's request port, and the two plainest helpers. -/

namespace Sys2Proof

/-- An octet is 8 bits; bit 7 is the most significant (00_scope.md R6). -/
abbrev Octet := BitVec 8

/-- What the host's request port carries: the request word and the SENDER word are 32-bit words, operand data are octets
(30_encoding.md R60, R61, R63). The spec gives the words no byte order on the port, so none is chosen (log entry 16). -/
inductive PortUnit where
  | word (w : BitVec 32)
  | octet (b : Octet)
deriving DecidableEq, Repr

/-- The two formats that `spec/opcode_table.json` encodes: a HOSTREQ (a request word and its operand data) and a CMDFRAME
(the octets of one command frame, offset 0 first) (30_encoding.md R60). -/
inductive Encoded where
  | request (units : List PortUnit)
  | frame (octets : List Octet)
deriving DecidableEq, Repr

/-- The vector whose entry `i` is `f i`. -/
def vecOfFn {α : Type} {n : Nat} (f : Fin n → α) : Vector α n :=
  ⟨⟨List.ofFn f⟩, by simp⟩

/-- `withValue x k` is `k x` (`withValue_eq`), written so that an evaluation has `x`'s value before it goes on with `k`. -/
def withValue {w : Nat} {α : Type} (x : BitVec w) (k : BitVec w → α) : α :=
  match x.toNat with
  | 0 => k 0#w
  | n + 1 => k (BitVec.ofNat w (n + 1))

end Sys2Proof
end

