-- ==== Sys2Proof/Config.lean ====
section
/-! DEFINITION. The parameters of the block (00_scope.md R5), the two it leaves open, and the one free value. -/

namespace Sys2Proof.Config

/-- `CRC_INIT` (R5, R101). -/
abbrev crcInit : BitVec 16 := 0xFFFF#16

/-- `CRC_POLY` (R5, R103). -/
abbrev crcPoly : BitVec 16 := 0x1021#16

/-- `CRC_EMPTY_RESULT` (R5, R105). -/
abbrev crcEmptyResult : BitVec 16 := 0x0000#16

/-- `CRC_MAX_OCTETS` (R5): the width of the length operand also bounds the operand data of DECODE_STATUS (R40, R63). -/
abbrev maxOperandOctets : Nat := 65535

/-- `STATUS_MIN_OCTETS` (R5, R121). -/
abbrev statusMinOctets : Nat := 512

/-- `NUM_CHANNELS` (R5, R15). -/
abbrev numChannels : Nat := 15

/-- `NAME_OCTETS` (R5, R14). -/
abbrev nameOctets : Nat := 31

/-- `CH_NAME_OCTETS` (R5, R15). -/
abbrev chNameOctets : Nat := 16

/-- `CH_STRIDE` (R5, R66). -/
abbrev chStride : Nat := 17

/-- `CMD_OCTETS`: the length of `TXF` and of every command frame (R5, R40, R70). -/
abbrev cmdOctets : Nat := 142

/-- `CMD_CRC_COVER` (R5, R75). -/
abbrev cmdCrcCover : Nat := 12

/-- `CMD_REPEAT` (R5, R153). -/
abbrev cmdRepeat : Nat := 4

/-- `DB_CEILING` in half-decibel units (R5, R182). -/
abbrev dbCeiling : Int := -20

/-- `CMD_DEST_PORT` (R5, R53, R156). -/
abbrev cmdDestPort : BitVec 16 := 45455#16

/-- The two OPEN parameters (92_eei_decisions.md part 1) with their defaults; a `State` holds them, no step writes them
(log entry 7). -/
structure Params where
  /-- `STATUS_BUF_OCTETS` (R5, 92 D6). -/
  statusBufOctets : Nat := 512
  /-- `SEQ_PRE_INCREMENT` (R5, 92 D14). -/
  seqPreIncrement : Bool := false
deriving DecidableEq, Repr

/-- The constraint R5 puts on `STATUS_BUF_OCTETS`. -/
abbrev Params.Legal (p : Params) : Prop :=
  512 ≤ p.statusBufOctets ∧ p.statusBufOctets ≤ 65535

/-- FREE VALUE (log entry 9): draw `n`'s octet at offset `a` of `TXF`, whose contents the spec leaves undefined after a
SEND and after a reset (20_memory.md R46, 70_reset_and_hazards.md R230, 93 U13). -/
opaque freeTxf (n a : Nat) : Octet

end Sys2Proof.Config
end

