-- ==== Sys2Proof/Syntax.lean ====
section
/-! DEFINITION. One constructor per row of `spec/opcode_table.json`: nine HOSTREQ operations and four CMDFRAME frames. -/

namespace Sys2Proof

/-- The rows of the opcode table with their operands (30_encoding.md R62, R63, R70, R72). -/
inductive Instr where
  /-- `CRC16`: the octets of `CRCIN`; their number is the operand `L` (R107). -/
  | crc16 (crcin : List Octet)
  /-- `SEND_TOGGLE_POWER` (R157). -/
  | sendTogglePower
  /-- `DECODE_STATUS`: the `SENDER` word and the octets of `RXF`; their number is the operand `N` (R120). -/
  | decodeStatus (sender : BitVec 32) (rxf : List Octet)
  /-- `RX_TIMEOUT` (R134). -/
  | rxTimeout
  /-- `SEND_SET_VOLUME`: `h`, two's complement half decibels (R159). -/
  | sendSetVolume (h : BitVec 16)
  /-- `SEND_SET_OUTPUT`: the output index (R160). -/
  | sendSetOutput (i : BitVec 4)
  /-- `DB2REG`: `h`, two's complement half decibels (R187). -/
  | db2reg (h : BitVec 16)
  /-- `SEND_TOGGLE_MUTE` (R158). -/
  | sendToggleMute
  /-- `REG2DB`: a raw volume octet (R190). -/
  | reg2db (v : BitVec 8)
  /-- `CMD_TOGGLE_POWER`: octet 3, octet 5 bits 6:0, octet 6 bit 0, octets 12 and 13 (R70, R72). -/
  | cmdTogglePower (seq : Octet) (seqh : BitVec 7) (a : Bool) (csum : BitVec 16)
  /-- `CMD_TOGGLE_MUTE`: octet 3, octet 5 bits 6:0, octet 6 bit 0, octets 12 and 13 (R70, R72). -/
  | cmdToggleMute (seq : Octet) (seqh : BitVec 7) (a : Bool) (csum : BitVec 16)
  /-- `CMD_SET_VOLUME`: octet 3, octet 5 bits 6:0, the payload (octets 8 and 9), octets 12 and 13 (R70, R73). -/
  | cmdSetVolume (seq : Octet) (seqh : BitVec 7) (payload : BitVec 16) (csum : BitVec 16)
  /-- `CMD_SET_OUTPUT`: octet 3, octet 5 bits 6:0, the five payload bits the table leaves free (octet 8 bit 0 above
  octet 9 bits 7:4), octets 12 and 13 (R70, R74). -/
  | cmdSetOutput (seq : Octet) (seqh : BitVec 7) (sel : BitVec 5) (csum : BitVec 16)
deriving DecidableEq, Repr

end Sys2Proof
end

