-- ==== Sys2Proof/WellFormed.lean ====
section
/-! DEFINITION. Which instructions have an encoding: the operand data must fit the 16-bit length operand. -/

namespace Sys2Proof

/-- The one bound that `Instr`'s types do not give: `CRCIN` and `RXF` have at most 65535 octets, the range of the 16-bit
operand `ARG` that carries their number (20_memory.md R40, 30_encoding.md R63). -/
def Instr.wellFormed : Instr → Bool
  | .crc16 crcin => decide (crcin.length ≤ Config.maxOperandOctets)
  | .sendTogglePower => true
  | .decodeStatus _ rxf => decide (rxf.length ≤ Config.maxOperandOctets)
  | .rxTimeout => true
  | .sendSetVolume _ => true
  | .sendSetOutput _ => true
  | .db2reg _ => true
  | .sendToggleMute => true
  | .reg2db _ => true
  | .cmdTogglePower _ _ _ _ => true
  | .cmdToggleMute _ _ _ _ => true
  | .cmdSetVolume _ _ _ _ => true
  | .cmdSetOutput _ _ _ _ => true

end Sys2Proof
end

