-- ==== Sys2Proof/Decode.lean ====
section
/-! DEFINITION. The decoder of requests and command frames, total and refusing by name, and the encoder after it. -/

namespace Sys2Proof

/-- Why a transaction is no instruction. -/
inductive DecodeError where
  /-- `OP` is 9 to 15: an illegal request (30_encoding.md R77). -/
  | reservedOpcode
  /-- `RSV` is not zero: an illegal request (R77). -/
  | reservedBits
  /-- A bit of `ARG` that R63 requires to be zero is 1: an illegal request (R77). -/
  | unusedOperandBits
  /-- The transaction does not begin with a request word: it is no request (R61; log entry 3). -/
  | requestWordMissing
  /-- Fewer operand octets than `ARG` says, or no SENDER word: it is no request (R60, R63; log entry 3). -/
  | operandDataMissing
  /-- More operand data than the operation takes: it is no request (R60, R63; log entry 3). -/
  | operandDataExcess
  /-- A word stands among the operand octets: it is no request (R63; log entry 3). -/
  | operandDataForm
  /-- The octets are no command frame: not 142 of them, or one among 14 to 141 is not zero, or no CMDFRAME row of the
  table matches (R70, R76, R78, R82). -/
  | notCommandFrame
deriving DecidableEq, Repr

/-- The three ways a request is *illegal* (30_encoding.md R77); the others are no request at all. -/
def DecodeError.illegal : DecodeError → Bool
  | .reservedOpcode => true
  | .reservedBits => true
  | .unusedOperandBits => true
  | .requestWordMissing => false
  | .operandDataMissing => false
  | .operandDataExcess => false
  | .operandDataForm => false
  | .notCommandFrame => false

/-! ### HOSTREQ (30_encoding.md R61 to R63) -/

/-- `OP`, bits 31:28 (R61). -/
def reqOp (w : BitVec 32) : BitVec 4 := w.extractLsb' 28 4

/-- `RSV`, bits 27:16 (R61). -/
def reqRsv (w : BitVec 32) : BitVec 12 := w.extractLsb' 16 12

/-- `ARG`, bits 15:0 (R61). -/
def reqArg (w : BitVec 32) : BitVec 16 := w.extractLsb' 0 16

/-- A request word from its fields, `RSV` zero (R61, R79). -/
def reqWord (op : BitVec 4) (arg : BitVec 16) : BitVec 32 := op ++ 0#12 ++ arg

/-- The octets of operand data; none where a word stands among them. -/
def octetsOf : List PortUnit → Option (List Octet)
  | [] => some []
  | .octet b :: rest => (octetsOf rest).map (b :: ·)
  | .word _ :: _ => none

/-- Operand data of exactly `n` octets (R63). -/
def operandOctets (n : Nat) (data : List PortUnit) : Except DecodeError (List Octet) :=
  match octetsOf data with
  | none => .error .operandDataForm
  | some os =>
    if os.length = n then .ok os
    else if os.length < n then .error .operandDataMissing
    else .error .operandDataExcess

/-- An operation without operand data (R60, R63). -/
def withoutData (i : Instr) (data : List PortUnit) : Except DecodeError Instr :=
  if data = [] then .ok i else .error .operandDataExcess

/-- An operation that uses no bit of `ARG` and takes no operand data (R63). -/
def withoutOperand (i : Instr) (arg : BitVec 16) (data : List PortUnit) : Except DecodeError Instr :=
  if arg = 0#16 then withoutData i data else .error .unusedOperandBits

/-- The operand data of DECODE_STATUS: the SENDER word, then `n` octets (R63). -/
def senderAndFrame (n : Nat) : List PortUnit → Except DecodeError Instr
  | .word sender :: frame => (operandOctets n frame).map (Instr.decodeStatus sender)
  | [] => .error .operandDataMissing
  | .octet _ :: _ => .error .operandDataForm

/-- A request: its word, then its operand data. The word is examined first, and an illegal one leaves the operand data
unread (R62, R63, R77). -/
def decodeRequest : List PortUnit → Except DecodeError Instr
  | .word w :: data =>
    let arg := reqArg w
    if reqRsv w ≠ 0#12 then .error .reservedBits
    else match (reqOp w).toNat with
      | 0 => (operandOctets arg.toNat data).map Instr.crc16
      | 1 => withoutOperand .sendTogglePower arg data
      | 2 => senderAndFrame arg.toNat data
      | 3 => withoutOperand .rxTimeout arg data
      | 4 => withoutData (.sendSetVolume arg) data
      | 5 =>
        if arg.extractLsb' 4 12 = 0#12 then withoutData (.sendSetOutput (arg.extractLsb' 0 4)) data
        else .error .unusedOperandBits
      | 6 => withoutData (.db2reg arg) data
      | 7 => withoutOperand .sendToggleMute arg data
      | 8 =>
        if arg.extractLsb' 8 8 = 0#8 then withoutData (.reg2db (arg.extractLsb' 0 8)) data
        else .error .unusedOperandBits
      | _ => .error .reservedOpcode
  | _ => .error .requestWordMissing

/-! ### CMDFRAME (30_encoding.md R70 to R76, R82) -/

/-- One CMDFRAME row of the opcode table: mask and match over offsets 0 to 13, offset 0 first (R82). -/
structure FrameRow where
  mask : List Octet
  pattern : List Octet
deriving DecidableEq, Repr

/-- Row `CMD_TOGGLE_POWER`. -/
def rowTogglePower : FrameRow where
  mask := [0xFF#8, 0xFF#8, 0xFF#8, 0x00#8, 0xFF#8, 0x80#8, 0xFE#8,
    0xFF#8, 0xFF#8, 0xFF#8, 0xFF#8, 0xFF#8, 0x00#8, 0x00#8]
  pattern := [0x44#8, 0x72#8, 0x00#8, 0x00#8, 0x00#8, 0x00#8, 0x00#8,
    0x01#8, 0x00#8, 0x00#8, 0x00#8, 0x00#8, 0x00#8, 0x00#8]

/-- Row `CMD_TOGGLE_MUTE`. -/
def rowToggleMute : FrameRow where
  mask := [0xFF#8, 0xFF#8, 0xFF#8, 0x00#8, 0xFF#8, 0x80#8, 0xFE#8,
    0xFF#8, 0xFF#8, 0xFF#8, 0xFF#8, 0xFF#8, 0x00#8, 0x00#8]
  pattern := [0x44#8, 0x72#8, 0x00#8, 0x00#8, 0x00#8, 0x00#8, 0x00#8,
    0x07#8, 0x00#8, 0x00#8, 0x00#8, 0x00#8, 0x00#8, 0x00#8]

/-- Row `CMD_SET_VOLUME`. -/
def rowSetVolume : FrameRow where
  mask := [0xFF#8, 0xFF#8, 0xFF#8, 0x00#8, 0xFF#8, 0x80#8, 0xFF#8,
    0xFF#8, 0x00#8, 0x00#8, 0xFF#8, 0xFF#8, 0x00#8, 0x00#8]
  pattern := [0x44#8, 0x72#8, 0x00#8, 0x00#8, 0x00#8, 0x00#8, 0x00#8,
    0x04#8, 0x00#8, 0x00#8, 0x00#8, 0x00#8, 0x00#8, 0x00#8]

/-- Row `CMD_SET_OUTPUT`. -/
def rowSetOutput : FrameRow where
  mask := [0xFF#8, 0xFF#8, 0xFF#8, 0x00#8, 0xFF#8, 0x80#8, 0xFF#8,
    0xFF#8, 0xFE#8, 0x0F#8, 0xFF#8, 0xFF#8, 0x00#8, 0x00#8]
  pattern := [0x44#8, 0x72#8, 0x00#8, 0x00#8, 0x00#8, 0x00#8, 0x00#8,
    0x05#8, 0x40#8, 0x00#8, 0x00#8, 0x00#8, 0x00#8, 0x00#8]

/-- Each octet of the head, under its mask, is its pattern octet. -/
def octetsMatch : List Octet → List Octet → List Octet → Bool
  | m :: ms, p :: ps, o :: os => (o &&& m == p) && octetsMatch ms ps os
  | [], [], [] => true
  | _, _, _ => false

/-- A row matches the head of a frame. -/
def FrameRow.fits (r : FrameRow) (head : List Octet) : Bool := octetsMatch r.mask r.pattern head

/-- A command frame of 142 octets, offsets 14 to 141 zero, by the four rows of the table. -/
def decodeFrame (octets : List Octet) : Except DecodeError Instr :=
  if octets.drop 14 ≠ List.replicate 128 0#8 then .error .notCommandFrame
  else match octets.take 14 with
    | [o0, o1, o2, o3, o4, o5, o6, o7, o8, o9, o10, o11, o12, o13] =>
      let head := [o0, o1, o2, o3, o4, o5, o6, o7, o8, o9, o10, o11, o12, o13]
      let seqh := o5.extractLsb' 0 7
      let csum := o12 ++ o13
      if rowTogglePower.fits head then .ok (.cmdTogglePower o3 seqh (o6.getLsbD 0) csum)
      else if rowToggleMute.fits head then .ok (.cmdToggleMute o3 seqh (o6.getLsbD 0) csum)
      else if rowSetVolume.fits head then .ok (.cmdSetVolume o3 seqh (o8 ++ o9) csum)
      else if rowSetOutput.fits head then
        .ok (.cmdSetOutput o3 seqh (o8.extractLsb' 0 1 ++ o9.extractLsb' 4 4) csum)
      else .error .notCommandFrame
    | _ => .error .notCommandFrame

/-- The decoder: total on any transaction, refusing by name. -/
def decode : Encoded → Except DecodeError Instr
  | .request units => decodeRequest units
  | .frame octets => decodeFrame octets

/-! ### The encoder -/

/-- A request word and its operand octets. -/
def encodeRequest (op : BitVec 4) (arg : BitVec 16) (data : List PortUnit) : Encoded :=
  .request (.word (reqWord op arg) :: data)

/-- The high octet of a 16-bit value, which stands at the lower offset (20_memory.md R41). -/
def hiOctet (v : BitVec 16) : Octet := v.extractLsb' 8 8

/-- The low octet of a 16-bit value, which stands at the higher offset (20_memory.md R41). -/
def loOctet (v : BitVec 16) : Octet := v.extractLsb' 0 8

/-- Offsets 0 to 11 of a command frame (30_encoding.md R70). -/
def frameCover (o3 o5 o6 o7 : Octet) (payload : BitVec 16) : List Octet :=
  [0x44#8, 0x72#8, 0x00#8, o3, 0x00#8, o5, o6, o7, hiOctet payload, loOctet payload, 0x00#8, 0x00#8]

/-- A whole command frame: the cover, the checksum field and 128 zero octets (30_encoding.md R70, R75, R76). -/
def frameOctets (o3 o5 o6 o7 : Octet) (payload csum : BitVec 16) : List Octet :=
  frameCover o3 o5 o6 o7 payload ++ [hiOctet csum, loOctet csum] ++ List.replicate 128 0x00#8

/-- Octet 5 of a frame from its bits 6:0; bit 7 is always 0 (30_encoding.md R71). -/
def seqhOctet (seqh : BitVec 7) : Octet := 0#1 ++ seqh

/-- Octet 6 of a toggle frame from its bit 0 (30_encoding.md R72). -/
def stateOctet (a : Bool) : Octet := if a then 0x01#8 else 0x00#8

/-- The payload of an output frame from the five bits the table leaves free (30_encoding.md R74). -/
def selPayload (sel : BitVec 5) : BitVec 16 :=
  (0x20#7 ++ sel.extractLsb' 4 1) ++ (sel.extractLsb' 0 4 ++ 0#4)

/-- The encoder, from the same tables (30_encoding.md R61 to R63, R70 to R76). -/
def encode : Instr → Encoded
  | .crc16 crcin => encodeRequest 0x0#4 (BitVec.ofNat 16 crcin.length) (crcin.map .octet)
  | .sendTogglePower => encodeRequest 0x1#4 0#16 []
  | .decodeStatus sender rxf =>
    encodeRequest 0x2#4 (BitVec.ofNat 16 rxf.length) (.word sender :: rxf.map .octet)
  | .rxTimeout => encodeRequest 0x3#4 0#16 []
  | .sendSetVolume h => encodeRequest 0x4#4 h []
  | .sendSetOutput i => encodeRequest 0x5#4 (0#12 ++ i) []
  | .db2reg h => encodeRequest 0x6#4 h []
  | .sendToggleMute => encodeRequest 0x7#4 0#16 []
  | .reg2db v => encodeRequest 0x8#4 (0#8 ++ v) []
  | .cmdTogglePower seq seqh a csum =>
    .frame (frameOctets seq (seqhOctet seqh) (stateOctet a) 0x01#8 0x0000#16 csum)
  | .cmdToggleMute seq seqh a csum =>
    .frame (frameOctets seq (seqhOctet seqh) (stateOctet a) 0x07#8 0x0000#16 csum)
  | .cmdSetVolume seq seqh payload csum =>
    .frame (frameOctets seq (seqhOctet seqh) 0x00#8 0x04#8 payload csum)
  | .cmdSetOutput seq seqh sel csum =>
    .frame (frameOctets seq (seqhOctet seqh) 0x00#8 0x05#8 (selPayload sel) csum)

/-! ### The opcode table's numbers -/

/-- The operand data a request word calls for, all of it zero (30_encoding.md R63). -/
def zeroOperands (w : BitVec 32) : List PortUnit :=
  match (reqOp w).toNat with
  | 0 => List.replicate (reqArg w).toNat (.octet 0#8)
  | 2 => .word 0#32 :: List.replicate (reqArg w).toNat (.octet 0#8)
  | _ => []

/-- The transaction whose table bits are `w`. A HOSTREQ row has 32 bits, the request word. A CMDFRAME row has 112 bits,
offsets 0 to 13 with offset 0 in the most significant octet (30_encoding.md R82; log entry 6); offsets 14 to 141 are zero. -/
def tableEncoded (nbits w : Nat) : Option Encoded :=
  if nbits = 32 then
    some (.request (.word (BitVec.ofNat 32 w) :: zeroOperands (BitVec.ofNat 32 w)))
  else if nbits = 112 then
    some (.frame ((List.range 14).map (fun k => BitVec.ofNat 8 (w >>> (8 * (13 - k))))
      ++ List.replicate 128 0#8))
  else none

/-- The instruction the decoder reads from the bits `w` of a row of `nbits` bits; none where it refuses. -/
def decodeTableWord (nbits w : Nat) : Option Instr :=
  match tableEncoded nbits w with
  | none => none
  | some e =>
    match decode e with
    | .ok i => some i
    | .error _ => none

end Sys2Proof
end

