-- ==== Sys2Proof/Machine/State.lean ====
section
/-! DEFINITION. The state of the block as plain data, its reset value, and the reasons a step can stop. -/

namespace Sys2Proof.Machine

/-- A buffer as a list of (offset, octet) cells in one canonical form: offsets strictly rising, none outside the buffer,
and no cell equal to `unlistedOctet` (`Memory.wf` in Machine/Ops.lean). The one buffer that is state is `TXF`
(20_memory.md R40). -/
abbrev Memory := List Host.Cell

/-- What an unlisted offset reads as: "all 142 octets of TXF are zero" when a command starts (20_memory.md R46). -/
abbrev unlistedOctet : Octet := 0x00#8

/-- One datagram handed to the transport by `emit` (00_scope.md R7). -/
structure Datagram where
  /-- The destination address. -/
  dst : BitVec 32
  /-- The destination UDP port. -/
  port : BitVec 16
  /-- The payload: a copy of all 142 octets of `TXF` (20_memory.md R46). -/
  octets : List Octet
deriving DecidableEq, Repr

/-- What a command frame requests (30_encoding.md R72 to R74). -/
inductive CommandRequest where
  /-- The requested power state: on or off. -/
  | power (on : Bool)
  /-- The requested mute state: muted or not. -/
  | mute (on : Bool)
  /-- The VOLREG16 of a volume command. -/
  | volume (volreg : BitVec 16)
  /-- The output index of an output command. -/
  | output (i : BitVec 4)
deriving DecidableEq, Repr

/-- What the classifier of 30_encoding.md R82 says of a frame. -/
inductive FrameReport where
  /-- The encoder can have produced the frame, with this sequence octet, for this request. -/
  | producible (seq : Octet) (request : CommandRequest)
  /-- "the frame is not one this engine can have produced" (93 part 2). -/
  | notProducible
deriving DecidableEq, Repr

/-- What the outside sees, in the order it happens (00_scope.md R8; 20_memory.md R51; log entry 11). -/
inductive Event where
  /-- `emit`: an entry of the transmit history. -/
  | emit (d : Datagram)
  /-- The response word that ends an operation (30_encoding.md R64). -/
  | response (w : BitVec 32)
  /-- The classifier's report on a command frame (30_encoding.md R82; log entry 5). -/
  | report (r : FrameReport)
deriving DecidableEq, Repr

/-- What the outside presents to the engine, one at a time (00_scope.md R8; log entries 1, 5, 10). -/
inductive Input where
  /-- A request with its operand data, or a command frame for the classifier. -/
  | present (e : Encoded)
  /-- The reset input (70_reset_and_hazards.md R230). -/
  | reset
deriving DecidableEq, Repr

/-- Why the machine stops with a fault. No condition of 60_exceptions.md is one: "None is fatal to the engine" (R200). -/
inductive Fault where
  /-- Raised by the buffer operations of Machine/Ops.lean for an offset outside its buffer. 20_memory.md R45: "An offset
  outside a buffer is never generated". Safe: the machine stops where the spec gives no octet (log entry 13). -/
  | offsetOutsideBuffer
deriving DecidableEq, Repr

/-- Why a step is refused. -/
inductive Refusal where
  /-- Raised by `exec` for an instruction without a meaning; no arm of this model does so. Safe. -/
  | notModelled (mnemonic : String)
  /-- Raised by `step` for a transaction that is no request: its operand data are missing, left over or out of form
  (30_encoding.md R60, R63). The spec gives such a transaction no effect. Safe (log entry 3). -/
  | notARequest (why : DecodeError)
deriving DecidableEq, Repr

/-- The state of the block: the twelve registers of 10_state.md R10, the transmit buffer, and the model's account of
what the outside presents and sees (INVENTORY.md, State). -/
structure State where
  /-- `SEQ`, the sequence counter (R11). -/
  seq : BitVec 8
  /-- `CONNECTED` (R12). -/
  connected : Bool
  /-- `SRC_VALID` (R13). -/
  srcValid : Bool
  /-- `SRC_ADDR` (R13). -/
  srcAddr : BitVec 32
  /-- `NAME[0..30]` (R14). -/
  name : Vector Octet 31
  /-- `CH_PRESENT[0..14]` (R15). -/
  chPresent : Vector Bool 15
  /-- `CH_NAME[0..14][0..15]` (R15). -/
  chName : Vector (Vector Octet 16) 15
  /-- `POWERED` (R16). -/
  powered : Bool
  /-- `MUTED` (R17). -/
  muted : Bool
  /-- `ACTIVE_CH` (R18). -/
  activeCh : BitVec 4
  /-- `VOL_RAW` (R19). -/
  volRaw : BitVec 8
  /-- `CSUM_OK` (R20). -/
  csumOk : Bool
  /-- `TXF`, the transmit buffer (20_memory.md R40, R46; log entries 8, 9). -/
  txf : Memory
  /-- What the host will present, next first (log entry 1). -/
  pending : List Input
  /-- What the outside has seen so far, oldest first (00_scope.md R8; log entry 11). -/
  outputs : List Event
  /-- The open parameters (00_scope.md R5; log entry 7). -/
  config : Config.Params
  /-- The MODEL's own counter of draws of `Config.freeTxf` (log entry 9). -/
  freeCount : Nat
deriving DecidableEq, Repr

/-- The machine right after reset (10_state.md R26; 70_reset_and_hazards.md R230, R231), with the default parameters
(00_scope.md R5), nothing presented and nothing seen. `TXF` after reset is undefined; no cell is listed (log entry 8). -/
def State.reset : State where
  seq := 0x00#8
  connected := false
  srcValid := false
  srcAddr := 0x00000000#32
  name := vecOfFn fun _ => 0x00#8
  chPresent := vecOfFn fun _ => false
  chName := vecOfFn fun _ => vecOfFn fun _ => 0x00#8
  powered := false
  muted := false
  activeCh := 0x0#4
  volRaw := 0x00#8
  csumOk := false
  txf := []
  pending := []
  outputs := []
  config := { statusBufOctets := 512, seqPreIncrement := false }
  freeCount := 0

end Sys2Proof.Machine
end

