-- ==== Sys2Proof/Machine/Ops.lean ====
section
/-! DEFINITION. The named operations over buffers and registers: MemRead and MemWrite, emit, respond, raise, reset. -/

namespace Sys2Proof.Machine

/-! ### Operand buffers `RXF` and `CRCIN` (20_memory.md R40, R41, R44) -/

/-- `MemRead(S, a, 1)`; none for an offset outside the buffer (R45). -/
def bufRead1 (S : List Octet) (a : Nat) : Option Octet := S[a]?

/-- `MemRead(S, a, 2)`, big-endian: `{S[a], S[a+1]}` (R41). -/
def bufRead2 (S : List Octet) (a : Nat) : Option (BitVec 16) :=
  match bufRead1 S a, bufRead1 S (a + 1) with
  | some hi, some lo => some (hi ++ lo)
  | _, _ => none

/-- A run of `n` octets from offset `a` (R44). -/
def bufReadRun (S : List Octet) (a n : Nat) : Option (Vector Octet n) :=
  if h : a + n ≤ S.length then some (vecOfFn fun j => S[a + j.val]'(by omega)) else none

/-! ### The transmit buffer `TXF` (20_memory.md R40, R41, R44, R46) -/

/-- Cells from `lo` on, in canonical form. -/
def Memory.wfFrom : Nat → Memory → Bool
  | _, [] => true
  | lo, (a, v) :: m =>
    decide (lo ≤ a) && decide (a < Config.cmdOctets) && decide (v ≠ unlistedOctet) && Memory.wfFrom (a + 1) m

/-- The canonical form: offsets strictly rising and inside the buffer, no cell equal to an unlisted one. -/
def Memory.wf (m : Memory) : Bool := Memory.wfFrom 0 m

/-- The octet at an offset. -/
def memGet : Memory → Nat → Octet
  | [], _ => unlistedOctet
  | (b, w) :: m, a => if a = b then w else memGet m a

/-- The buffer with one octet written, in canonical form again. -/
def memSet : Memory → Nat → Octet → Memory
  | [], a, v => if v = unlistedOctet then [] else [(a, v)]
  | (b, w) :: m, a, v =>
    if a < b then (if v = unlistedOctet then (b, w) :: m else (a, v) :: (b, w) :: m)
    else if a = b then (if v = unlistedOctet then m else (a, v) :: m)
    else (b, w) :: memSet m a v

/-- The canonical buffer whose octet at each of the `n` offsets from `a` on is `f`'s. -/
def memFill (f : Nat → Octet) : Nat → Nat → Memory
  | 0, _ => []
  | n + 1, a =>
    if f a = unlistedOctet then memFill f n (a + 1) else (a, f a) :: memFill f n (a + 1)

/-- The one state with another `TXF`. -/
def setTxf (m : Memory) (s : State) : State := { s with txf := m }

/-- "At the start of a SEND operation [...] all 142 octets of TXF are zero" (R46, 42_command_encoder.md R152). -/
def txfClear (s : State) : State := setTxf [] s

/-- `TXF[a..a+n-1]`, octet by octet (R44); none where an offset is outside the 142 octets (R45). -/
def txfReadRun (a n : Nat) (s : State) : Option (List Octet) :=
  if a + n ≤ Config.cmdOctets then some ((List.range' a n).map (memGet s.txf)) else none

/-- `MemWrite(TXF, a, 1, v)`; none for an offset outside the 142 octets (R45). -/
def txfWrite1 (a : Nat) (v : Octet) (s : State) : Option State :=
  if a < Config.cmdOctets then some (setTxf (memSet s.txf a v) s) else none

/-- `MemWrite(TXF, a, 2, v)`, big-endian: the high octet at `a`, the low one at `a + 1` (R41). -/
def txfWrite2 (a : Nat) (v : BitVec 16) (s : State) : Option State :=
  (txfWrite1 a (v.extractLsb' 8 8) s).bind (txfWrite1 (a + 1) (v.extractLsb' 0 8))

/-- "After the operation TXF has no defined content" (R46); reset leaves it undefined too (R230): its octets become the
next draw of the free value (log entry 9). -/
def forgetTxf (s : State) : State :=
  { s with
    txf := memFill (Config.freeTxf s.freeCount) Config.cmdOctets 0
    freeCount := s.freeCount + 1 }

/-! ### Registers that one operation writes on its own -/

/-- `SEQ <- v`. -/
def setSeq (v : BitVec 8) (s : State) : State := { s with seq := v }

/-- `CONNECTED <- v`. -/
def setConnected (v : Bool) (s : State) : State := { s with connected := v }

/-! ### What the outside sees -/

/-- One more event at the end of the account. -/
def observe (e : Event) (s : State) : State := { s with outputs := s.outputs ++ [e] }

/-- `emit(dst, port, octets)` (00_scope.md R7). -/
def emit (d : Datagram) (s : State) : State := observe (.emit d) s

/-- The datagram of an event, if it is one. -/
def datagramOf : Event → Option Datagram
  | .emit d => some d
  | .response _ => none
  | .report _ => none

/-- The response word of an event, if it is one. -/
def responseOf : Event → Option (BitVec 32)
  | .emit _ => none
  | .response w => some w
  | .report _ => none

/-- The transmit history of 00_scope.md R8(b): the datagrams among the events, in order. -/
def State.sent (s : State) : List Datagram := s.outputs.filterMap datagramOf

/-- The responses of 00_scope.md R8(a), in order. -/
def State.responses (s : State) : List (BitVec 32) := s.outputs.filterMap responseOf

/-- The status codes of 30_encoding.md R64. -/
inductive RspCode where
  | ok
  | checksumMismatch
  | malformedPayload
  | frameLength
  | illegalOp
deriving DecidableEq, Repr

/-- The numbers of the status codes (R64). -/
def rspCodeBits : RspCode → BitVec 4
  | .ok => 0x0#4
  | .checksumMismatch => 0x1#4
  | .malformedPayload => 0x2#4
  | .frameLength => 0x3#4
  | .illegalOp => 0x4#4

/-- The response word: `CODE` in 31:28, zero in 27:16, `VALUE` in 15:0 (R64). -/
def rspWord (code : RspCode) (value : BitVec 16) : BitVec 32 := rspCodeBits code ++ 0#12 ++ value

/-- `respond(code, value)`: the operation ends with its one response (00_scope.md R7, R8). -/
def respond (code : RspCode) (value : BitVec 16) (s : State) : State :=
  observe (.response (rspWord code value)) s

/-! ### Taking an error (60_exceptions.md R200 to R211)

Three of the six conditions abort: MalformedPayload, FrameLength and IllegalOp. ChecksumMismatch and Timeout complete and
NotConnected is silent (R207); they are in the meanings of DECODE_STATUS, RX_TIMEOUT and the SEND operations. There is no
return beside the entry: "There is nothing to return from and nothing to nest: the next request is handled on its own"
(R211). -/

/-- The aborting conditions with the value each records (R203, R205, R206). -/
inductive Raised where
  /-- The first failing text field: `0x001F` the device name, 0 to 14 a channel (R203). -/
  | malformedPayload (field : BitVec 16)
  /-- The length as given (R205). -/
  | frameLength (n : BitVec 16)
  /-- An illegal request; no value (R206). -/
  | illegalOp
deriving DecidableEq, Repr

/-- The status code of a condition (R207). -/
def raisedCode : Raised → RspCode
  | .malformedPayload _ => .malformedPayload
  | .frameLength _ => .frameLength
  | .illegalOp => .illegalOp

/-- The recorded value of a condition (R207). -/
def raisedValue : Raised → BitVec 16
  | .malformedPayload field => field
  | .frameLength n => n
  | .illegalOp => 0#16

/-- Taking an aborting condition: "An error saves nothing and transfers control nowhere"; the state after is exactly the
state before, and the response names the condition (R210; 00_scope.md R7). -/
def raise (e : Raised) (s : State) : State := respond (raisedCode e) (raisedValue e) s

/-! ### The host's transactions and reset -/

/-- The next transaction has been taken. -/
def setPending (p : List Input) (s : State) : State := { s with pending := p }

/-- The reset input (70_reset_and_hazards.md R230): every register at its value of 10_state.md R26 and `TXF` undefined.
No operation is in progress when an input is taken, so none is abandoned; datagrams already emitted are not recalled, and
what the host has yet to present is the host's (log entry 10). -/
def applyReset (s : State) : State :=
  { forgetTxf s with
    seq := State.reset.seq
    connected := State.reset.connected
    srcValid := State.reset.srcValid
    srcAddr := State.reset.srcAddr
    name := State.reset.name
    chPresent := State.reset.chPresent
    chName := State.reset.chName
    powered := State.reset.powered
    muted := State.reset.muted
    activeCh := State.reset.activeCh
    volRaw := State.reset.volRaw
    csumOk := State.reset.csumOk }

/-- What the machine does with a transaction that is no instruction: an illegal request takes IllegalOp
(60_exceptions.md R206), a frame that no row of the table fits is reported (93 part 2), and a transaction that is no
request is refused (log entry 3). -/
def takeUndecodable (why : DecodeError) (s : State) : Host.Outcome State Fault Refusal :=
  if why.illegal then .next (raise .illegalOp s)
  else if why = .notCommandFrame then .next (observe (.report .notProducible) s)
  else .refused (.notARequest why)

end Sys2Proof.Machine
end

