-- ==== Sys2Proof/Machine/Checksum.lean ====
section
/-! DEFINITION. The Checksum Unit: `checksum16` and the operation CRC16 (40_checksum.md). -/

namespace Sys2Proof.Machine

/-- One round: the test is on bit 15 before the shift, and both arms keep 16 bits (R103). -/
def crcRound (crc : BitVec 16) : BitVec 16 :=
  if crc[15] then (crc <<< 1) ^^^ Config.crcPoly else crc <<< 1

/-- `n` rounds. -/
def crcRounds : Nat → BitVec 16 → BitVec 16
  | 0, crc => crc
  | n + 1, crc => crcRounds n (crcRound crc)

/-- One octet: it enters bits 15:8 of the register, then 8 rounds follow (R102; most significant bit first,
20_memory.md R42). -/
def crcByte (crc : BitVec 16) (b : Octet) : BitVec 16 :=
  crcRounds 8 (crc ^^^ (b.setWidth 16 <<< 8))

/-- The octets in increasing index order, from a register value (R102, R106). -/
def crcFrom : BitVec 16 → List Octet → BitVec 16
  | crc, [] => crc
  | crc, b :: rest => withValue (crcByte crc b) fun crc' => crcFrom crc' rest

/-- `checksum16`: 0 for the empty sequence, else the register from `0xFFFF` on with no final XOR (R104 to R106). -/
def checksum16 (octets : List Octet) : BitVec 16 :=
  if octets = [] then Config.crcEmptyResult else crcFrom Config.crcInit octets

/-- `CRC16`: answers the checksum of its operand; no register is written (R107). -/
def execCrc16 (crcin : List Octet) (s : State) : Host.Outcome State Fault Refusal :=
  .next (respond .ok (checksum16 crcin) s)

end Sys2Proof.Machine
end

