-- ==== Sys2Proof/Machine/Operands.lean ====
section
/-! DEFINITION. The operand forms: the level in half decibels, the output payload, the offsets of a status frame. -/

namespace Sys2Proof.Machine

/-- The operand `h` of SEND_SET_VOLUME and DB2REG: a signed count of half decibels (43_volume_codec.md R181). -/
def halfDb (h : BitVec 16) : Int := h.toInt

/-- The payload of *set output*: `0x4000 | (i << 5)`, its low octet shifted right once more where `i > 7`
(30_encoding.md R74; 42_command_encoder.md R160). -/
def outputPayload (i : BitVec 4) : BitVec 16 :=
  let v := 0x4000#16 ||| (i.setWidth 16 <<< 5)
  let hi : Octet := v.extractLsb' 8 8
  let lo : Octet := v.extractLsb' 0 8
  hi ++ (if 7#4 < i then lo >>> 1 else lo)

/-- Octet A of a toggle command, "i.e., requested new state": 1 where the current state is 0, else 0 (30_encoding.md R72). -/
def toggleRequest (current : Bool) : Octet := if current then 0x00#8 else 0x01#8

/-- The first offset of the name field, and of the channel records (30_encoding.md R65). -/
def nameOffset : Nat := 19

/-- The offset of channel 0's flag; the records of 17 octets follow one another (30_encoding.md R66). -/
def channelOffset : Nat := 52

/-- The offsets of the power octet, the mute and channel octet, and the volume octet (30_encoding.md R65). -/
def powerOffset : Nat := 307
def muteOffset : Nat := 308
def volumeOffset : Nat := 310

end Sys2Proof.Machine
end

