-- ==== Sys2Proof/Machine/Codec.lean ====
section
/-! DEFINITION. The Volume Codec: `db_to_register`, DB2REG and REG2DB (43_volume_codec.md). -/

namespace Sys2Proof.Machine

/-- The least `s` from `s` on with `2^s ≥ k`, looking at most `fuel` steps ahead. -/
def clog2From : Nat → Nat → Nat → Nat
  | 0, s, _ => s
  | fuel + 1, s, k => if k ≤ 2 ^ s then s else clog2From fuel (s + 1) k

/-- `clog2(k)`: the least `s ≥ 0` with `2^s ≥ k` (R183). -/
def clog2 (k : Nat) : Nat := clog2From k 0 k

/-- The step increment `256 >> clog2(k)`, the shift that of the unbounded integer (R183; 00_scope.md R6). -/
def inc (k : Nat) : Nat := 256 >>> clog2 k

/-- The magnitude, by the source's recursion (R184). -/
def mag : Nat → Nat
  | 0 => 0x0000
  | 1 => 0x3F00
  | k + 2 => inc (k + 2) + mag (k + 1)

/-- The loop of R185: `n` further steps, the next being step `k`. -/
def magSteps : Nat → Nat → Nat → Nat
  | 0, _, acc => acc
  | n + 1, k, acc => magSteps n (k + 1) (acc + inc k)

/-- The magnitude, by the loop; "the loop may stop at min(K, 256)" (R185; log entry 17). -/
def magLoop (K : Nat) : Nat :=
  if K = 0 then 0x0000 else magSteps (min K 256 - 1) 2 0x3F00

/-- `db_to_register` of `h` half decibels: the clamp, the magnitude, and the sign of the ORIGINAL operand in bit 15
(R182, R186). -/
def dbToRegister (h : Int) : BitVec 16 :=
  let K := (-(min h Config.dbCeiling)).toNat
  let m := BitVec.ofNat 16 (magLoop K)
  if h < 0 then m ||| 0x8000#16 else m

/-- `DB2REG`: answers VOLREG16; no register is written (R187). -/
def execDb2reg (h : BitVec 16) (s : State) : Host.Outcome State Fault Refusal :=
  .next (respond .ok (dbToRegister (halfDb h)) s)

/-- `sext_16(v − 195)`, the level of a raw volume octet in half decibels (R190). -/
def rawToHalfDb (v : BitVec 8) : BitVec 16 := BitVec.ofInt 16 ((v.toNat : Int) - 195)

/-- `REG2DB`: answers the level of the operand; no register is read or written (R190). -/
def execReg2db (v : BitVec 8) (s : State) : Host.Outcome State Fault Refusal :=
  .next (respond .ok (rawToHalfDb v) s)

end Sys2Proof.Machine
end

