-- ==== Sys2Proof/Machine/Flags.lean ====
section
/-! DEFINITION. How the flag registers are computed from a status frame (30_encoding.md R66 to R68; 41_status_decoder.md). -/

namespace Sys2Proof.Machine

/-- A channel is enabled exactly where its flag octet is `'1'`; every other value, `'0'` included, is not enabled
(30_encoding.md R66, R78(a); 41_status_decoder.md R122). -/
def flagEnabled (flag : Octet) : Bool := flag == 0x31#8

/-- `POWERED`: bit 7 of octet 307 (41_status_decoder.md R127). -/
def flagPowered (b307 : Octet) : Bool := b307[7]

/-- `MUTED`: bit 1 of octet 308 (41_status_decoder.md R128). -/
def flagMuted (b308 : Octet) : Bool := b308[1]

/-- `ACTIVE_CH`: bits 5:2 of octet 308, unsigned (41_status_decoder.md R129). -/
def fieldActive (b308 : Octet) : BitVec 4 := b308.extractLsb' 2 4

/-- `CSUM_OK`: the computed checksum of the cover equals the transmitted one, all 16 bits
(41_status_decoder.md R131). -/
def flagCsumOk (cover : List Octet) (transmitted : BitVec 16) : Bool := checksum16 cover == transmitted

end Sys2Proof.Machine
end

