-- ==== Sys2Proof/Machine/Utf8.lean ====
section
/-! DEFINITION. Well-formed UTF-8 as 30_encoding.md R81 tabulates it. -/

namespace Sys2Proof.Machine

/-- An octet in a range, both ends included. -/
def octetIn (lo hi b : Octet) : Bool := decide (lo ≤ b) && decide (b ≤ hi)

/-- A two-octet sequence of the table (R81). -/
def utf8Two (b0 b1 : Octet) : Bool := octetIn 0xC2#8 0xDF#8 b0 && octetIn 0x80#8 0xBF#8 b1

/-- A three-octet sequence of the table (R81). -/
def utf8Three (b0 b1 b2 : Octet) : Bool :=
  ((b0 == 0xE0#8 && octetIn 0xA0#8 0xBF#8 b1) || (octetIn 0xE1#8 0xEC#8 b0 && octetIn 0x80#8 0xBF#8 b1)
    || (b0 == 0xED#8 && octetIn 0x80#8 0x9F#8 b1) || (octetIn 0xEE#8 0xEF#8 b0 && octetIn 0x80#8 0xBF#8 b1))
  && octetIn 0x80#8 0xBF#8 b2

/-- A four-octet sequence of the table (R81). -/
def utf8Four (b0 b1 b2 b3 : Octet) : Bool :=
  ((b0 == 0xF0#8 && octetIn 0x90#8 0xBF#8 b1) || (octetIn 0xF1#8 0xF3#8 b0 && octetIn 0x80#8 0xBF#8 b1)
    || (b0 == 0xF4#8 && octetIn 0x80#8 0x8F#8 b1))
  && octetIn 0x80#8 0xBF#8 b2 && octetIn 0x80#8 0xBF#8 b3

/-- `utf8_wf`: the whole sequence is a concatenation of sequences from the table; one cut short by the end of the field is
ill-formed (R81). The first octet alone tells the length of its sequence. -/
def utf8Wf : List Octet → Bool
  | [] => true
  | b0 :: t0 =>
    if b0 ≤ 0x7F#8 then utf8Wf t0
    else match t0 with
      | [] => false
      | b1 :: t1 =>
        if b0 ≤ 0xDF#8 then utf8Two b0 b1 && utf8Wf t1
        else match t1 with
          | [] => false
          | b2 :: t2 =>
            if b0 ≤ 0xEF#8 then utf8Three b0 b1 b2 && utf8Wf t2
            else match t2 with
              | [] => false
              | b3 :: t3 => utf8Four b0 b1 b2 b3 && utf8Wf t3

end Sys2Proof.Machine
end

