-- ==== Sys2Proof/Machine/Decoder.lean ====
section
/-! DEFINITION. The Status Decoder: DECODE_STATUS and RX_TIMEOUT (41_status_decoder.md). -/

namespace Sys2Proof.Machine

/-- What the decoder reads of a frame: the name, the fifteen channel records, the octets 307, 308 and 310, the
transmitted checksum and the octets it covers (30_encoding.md R65, R68). -/
structure StatusFields where
  name : Vector Octet 31
  records : Vector Octet 255
  b307 : Octet
  b308 : Octet
  b310 : Octet
  transmitted : BitVec 16
  cover : List Octet
deriving DecidableEq, Repr

/-- The reads of `RXF`; none where an offset is outside the frame, which R121 excludes (20_memory.md R45). -/
def readStatus (rxf : List Octet) : Option StatusFields :=
  (bufReadRun rxf nameOffset 31).bind fun name =>
  (bufReadRun rxf channelOffset 255).bind fun records =>
  (bufRead1 rxf powerOffset).bind fun b307 =>
  (bufRead1 rxf muteOffset).bind fun b308 =>
  (bufRead1 rxf volumeOffset).bind fun b310 =>
  (bufRead2 rxf (rxf.length - 2)).bind fun transmitted =>
  some { name, records, b307, b308, b310, transmitted, cover := rxf.take (rxf.length - 2) }

/-- `en[i]`: the flag octet of record `i` says enabled (R122). -/
def channelEnabled (f : StatusFields) (i : Fin 15) : Bool :=
  flagEnabled (f.records[17 * i.val]'(by omega))

/-- The 16 octets of channel `i`'s name field (30_encoding.md R66). -/
def channelName (f : StatusFields) (i : Fin 15) : Vector Octet 16 :=
  vecOfFn fun j => f.records[17 * i.val + 1 + j.val]'(by omega)

/-- The first text field that is not well-formed: the device name (`0x1F`), then the names of the enabled channels in
ascending order (R123). A disabled channel's name is not looked at. -/
def firstMalformed (f : StatusFields) : Option (BitVec 16) :=
  if utf8Wf f.name.toList then
    ((List.finRange 15).find? fun i => channelEnabled f i && !utf8Wf (channelName f i).toList).map
      fun i => BitVec.ofNat 16 i.val
  else some 0x001F#16

/-- Steps 4 to 11 of R120, together: every register of the snapshot, and the entries of the enabled channels only
(R124 to R131). -/
def commitStatus (sender : BitVec 32) (f : StatusFields) (s : State) : State :=
  { s with
    connected := true
    srcAddr := sender
    srcValid := true
    name := f.name
    chPresent := vecOfFn fun i => if channelEnabled f i then true else s.chPresent[i]
    chName := vecOfFn fun i => if channelEnabled f i then channelName f i else s.chName[i]
    powered := flagPowered f.b307
    muted := flagMuted f.b308
    activeCh := fieldActive f.b308
    volRaw := f.b310
    csumOk := flagCsumOk f.cover f.transmitted }

/-- The response code of a commit (R132). -/
def commitCode (f : StatusFields) : RspCode :=
  if flagCsumOk f.cover f.transmitted then .ok else .checksumMismatch

/-- `DECODE_STATUS`, the whole operation (R120): the length check (R121), the text checks (R123), the commit (R124 to
R131) and the response (R132). -/
def execDecodeStatus (sender : BitVec 32) (rxf : List Octet) (s : State) :
    Host.Outcome State Fault Refusal :=
  if rxf.length < Config.statusMinOctets ∨ s.config.statusBufOctets < rxf.length then
    .next (raise (.frameLength (BitVec.ofNat 16 rxf.length)) s)
  else match readStatus rxf with
    | none => .fault .offsetOutsideBuffer
    | some f =>
      match firstMalformed f with
      | some field => .next (raise (.malformedPayload field) s)
      | none => .next (respond (commitCode f) 0#16 (commitStatus sender f s))

/-- `RX_TIMEOUT`: `CONNECTED` becomes 0 and nothing else changes (R134; 60_exceptions.md R201). -/
def execRxTimeout (s : State) : Host.Outcome State Fault Refusal :=
  .next (respond .ok 0#16 (setConnected false s))

end Sys2Proof.Machine
end

