-- ==== Sys2Proof/Machine/Encoder.lean ====
section
/-! DEFINITION. The Command Encoder: the four SEND operations (42_command_encoder.md). -/

namespace Sys2Proof.Machine

/-- `build(A, B, P)`: a cleared `TXF`, the magic, the command octets and the payload (R152; 30_encoding.md R70). -/
def buildFrame (a b : Octet) (p : BitVec 16) (s : State) : Option State :=
  (txfWrite1 0 0x44#8 (txfClear s)).bind fun s =>
  (txfWrite1 1 0x72#8 s).bind fun s =>
  (txfWrite1 6 a s).bind fun s =>
  (txfWrite1 7 b s).bind fun s =>
  txfWrite2 8 p s

/-- The counter value a datagram carries: the counter before its increment, or after it under `SEQ_PRE_INCREMENT`
(R153). -/
def stampValue (s : State) : BitVec 8 := if s.config.seqPreIncrement then s.seq + 1#8 else s.seq

/-- Offsets 3, 5, 12 and 13 of one transmission: the two sequence octets, then the checksum of offsets 0 to 11 (R153 to
R155). -/
def stampFrame (v : BitVec 8) (s : State) : Option State :=
  (txfWrite1 3 v s).bind fun s =>
  (txfWrite1 5 (v >>> 1) s).bind fun s =>
  (txfReadRun 0 Config.cmdCrcCover s).bind fun cover =>
  txfWrite2 12 (checksum16 cover) s

/-- One transmission: stamp, emit a copy of all 142 octets, advance the counter modulo 256 (R153). -/
def transmitOne (dst : BitVec 32) (s : State) : Option State :=
  (stampFrame (stampValue s) s).bind fun s =>
  (txfReadRun 0 Config.cmdOctets s).bind fun octets =>
  some (setSeq (s.seq + 1#8) (emit ⟨dst, Config.cmdDestPort, octets⟩ s))

/-- `n` transmissions in order. -/
def transmit (dst : BitVec 32) : Nat → State → Option State
  | 0, s => some s
  | n + 1, s => (transmitOne dst s).bind (transmit dst n)

/-- What all four SEND operations share: the guard (R151), the build (R152), the four transmissions to `SRC_ADDR` as it
stands at the start (R153, R156) and the response (R161). -/
def sendCommand (a b : Octet) (p : BitVec 16) (s : State) : Host.Outcome State Fault Refusal :=
  if s.connected then
    match (buildFrame a b p s).bind (transmit s.srcAddr Config.cmdRepeat) with
    | none => .fault .offsetOutsideBuffer
    | some t => .next (respond .ok 0#16 (forgetTxf t))
  else .next (respond .ok 0#16 s)

/-- `SEND_TOGGLE_POWER`: requests the opposite of `POWERED` (R157). -/
def execSendTogglePower (s : State) : Host.Outcome State Fault Refusal :=
  sendCommand (toggleRequest s.powered) 0x01#8 0x0000#16 s

/-- `SEND_TOGGLE_MUTE`: requests the opposite of `MUTED` (R158). -/
def execSendToggleMute (s : State) : Host.Outcome State Fault Refusal :=
  sendCommand (toggleRequest s.muted) 0x07#8 0x0000#16 s

/-- `SEND_SET_VOLUME`: the payload is `db_to_register` of the operand (R159). -/
def execSendSetVolume (h : BitVec 16) (s : State) : Host.Outcome State Fault Refusal :=
  sendCommand 0x00#8 0x04#8 (dbToRegister (halfDb h)) s

/-- `SEND_SET_OUTPUT`: the payload is that of 30_encoding.md R74, for any index (R160). -/
def execSendSetOutput (i : BitVec 4) (s : State) : Host.Outcome State Fault Refusal :=
  sendCommand 0x00#8 0x05#8 (outputPayload i) s

end Sys2Proof.Machine
end

