-- ==== Sys2Proof/Machine/Frames.lean ====
section
/-! DEFINITION. The four CMDFRAME rows: a command frame presented to the machine is classified (30_encoding.md R82).

The engine has no operation on a command frame; what the spec says of one "seen from the receiving side, or by a test
bench" is the classification of R82. It reads and writes no register (10_state.md R25) and emits nothing; its verdict is
an event (log entry 5). What the amplifier does with the frame is in no source (00_scope.md R4; 93 U11). -/

namespace Sys2Proof.Machine

/-- `TXF[5] = TXF[3] >> 1`, bit 7 of octet 5 being 0 already (R71, R82). -/
def seqOctetsAgree (seq : Octet) (seqh : BitVec 7) : Bool := seqhOctet seqh == seq >>> 1

/-- `{TXF[12], TXF[13]} = checksum16(TXF[0..11])` (R75, R82). -/
def frameCsumOk (seq : Octet) (seqh : BitVec 7) (a b : Octet) (payload csum : BitVec 16) : Bool :=
  checksum16 (frameCover seq (seqhOctet seqh) a b payload) == csum

/-- The verdict on a frame whose request is `request`, if any (R82). -/
def frameVerdict (seq : Octet) (seqh : BitVec 7) (a b : Octet) (payload csum : BitVec 16)
    (request : Option CommandRequest) : FrameReport :=
  match request with
  | none => .notProducible
  | some r =>
    if seqOctetsAgree seq seqh && frameCsumOk seq seqh a b payload csum then .producible seq r
    else .notProducible

/-- Whether `p` is `0x8000 | m`, where `m` runs over `acc` and the next `n` values of the magnitude curve, step `k` coming
next (43_volume_codec.md R185). -/
def onCurve (p : BitVec 16) : Nat → Nat → Nat → Bool
  | 0, _, acc => p == (0x8000#16 ||| BitVec.ofNat 16 acc)
  | n + 1, k, acc => p == (0x8000#16 ||| BitVec.ofNat 16 acc) || onCurve p n (k + 1) (acc + inc k)

/-- The payloads of *set volume*: `0x4120`, and `0x8000 | mag(K)` for 20 ≤ K ≤ 256 (R82; 43_volume_codec.md R189). -/
def volumePayload (p : BitVec 16) : Bool := p == 0x4120#16 || onCurve p 236 21 (magLoop 20)

/-- The output index whose payload is `p`, if any (R74, R82). -/
def outputIndexOf (p : BitVec 16) : Option (BitVec 4) :=
  ((List.finRange 16).map (BitVec.ofFin (w := 4))).find? fun i => outputPayload i == p

/-- The verdict on a toggle-power frame. -/
def classifyTogglePower (seq : Octet) (seqh : BitVec 7) (a : Bool) (csum : BitVec 16) : FrameReport :=
  frameVerdict seq seqh (stateOctet a) 0x01#8 0x0000#16 csum (some (.power a))

/-- The verdict on a toggle-mute frame. -/
def classifyToggleMute (seq : Octet) (seqh : BitVec 7) (a : Bool) (csum : BitVec 16) : FrameReport :=
  frameVerdict seq seqh (stateOctet a) 0x07#8 0x0000#16 csum (some (.mute a))

/-- The verdict on a set-volume frame. -/
def classifySetVolume (seq : Octet) (seqh : BitVec 7) (payload csum : BitVec 16) : FrameReport :=
  frameVerdict seq seqh 0x00#8 0x04#8 payload csum
    (if volumePayload payload then some (.volume payload) else none)

/-- The verdict on a set-output frame. -/
def classifySetOutput (seq : Octet) (seqh : BitVec 7) (sel : BitVec 5) (csum : BitVec 16) : FrameReport :=
  frameVerdict seq seqh 0x00#8 0x05#8 (selPayload sel) csum
    ((outputIndexOf (selPayload sel)).map .output)

/-- The classifier of R82 on the octets of a frame. -/
def classifyFrame (octets : List Octet) : FrameReport :=
  match decodeFrame octets with
  | .ok (.cmdTogglePower seq seqh a csum) => classifyTogglePower seq seqh a csum
  | .ok (.cmdToggleMute seq seqh a csum) => classifyToggleMute seq seqh a csum
  | .ok (.cmdSetVolume seq seqh payload csum) => classifySetVolume seq seqh payload csum
  | .ok (.cmdSetOutput seq seqh sel csum) => classifySetOutput seq seqh sel csum
  | _ => .notProducible

/-- `CMD_TOGGLE_POWER` (R72, R82). -/
def execCmdTogglePower (seq : Octet) (seqh : BitVec 7) (a : Bool) (csum : BitVec 16) (s : State) :
    Host.Outcome State Fault Refusal :=
  .next (observe (.report (classifyTogglePower seq seqh a csum)) s)

/-- `CMD_TOGGLE_MUTE` (R72, R82). -/
def execCmdToggleMute (seq : Octet) (seqh : BitVec 7) (a : Bool) (csum : BitVec 16) (s : State) :
    Host.Outcome State Fault Refusal :=
  .next (observe (.report (classifyToggleMute seq seqh a csum)) s)

/-- `CMD_SET_VOLUME` (R73, R82). -/
def execCmdSetVolume (seq : Octet) (seqh : BitVec 7) (payload csum : BitVec 16) (s : State) :
    Host.Outcome State Fault Refusal :=
  .next (observe (.report (classifySetVolume seq seqh payload csum)) s)

/-- `CMD_SET_OUTPUT` (R74, R82). -/
def execCmdSetOutput (seq : Octet) (seqh : BitVec 7) (sel : BitVec 5) (csum : BitVec 16) (s : State) :
    Host.Outcome State Fault Refusal :=
  .next (observe (.report (classifySetOutput seq seqh sel csum)) s)

end Sys2Proof.Machine
end

