-- ==== Sys2Proof/Machine/Dispatch.lean ====
section
/-! DEFINITION. One arm per row of the opcode table. -/

namespace Sys2Proof.Machine

def exec (i : Instr) (s : State) : Host.Outcome State Fault Refusal :=
  match i with
  | .crc16 crcin => Sys2Proof.Machine.execCrc16 crcin s
  | .sendTogglePower => Sys2Proof.Machine.execSendTogglePower s
  | .decodeStatus sender rxf => Sys2Proof.Machine.execDecodeStatus sender rxf s
  | .rxTimeout => Sys2Proof.Machine.execRxTimeout s
  | .sendSetVolume h => Sys2Proof.Machine.execSendSetVolume h s
  | .sendSetOutput k => Sys2Proof.Machine.execSendSetOutput k s
  | .db2reg h => Sys2Proof.Machine.execDb2reg h s
  | .sendToggleMute => Sys2Proof.Machine.execSendToggleMute s
  | .reg2db v => Sys2Proof.Machine.execReg2db v s
  | .cmdTogglePower seq seqh a csum => Sys2Proof.Machine.execCmdTogglePower seq seqh a csum s
  | .cmdToggleMute seq seqh a csum => Sys2Proof.Machine.execCmdToggleMute seq seqh a csum s
  | .cmdSetVolume seq seqh payload csum => Sys2Proof.Machine.execCmdSetVolume seq seqh payload csum s
  | .cmdSetOutput seq seqh sel csum => Sys2Proof.Machine.execCmdSetOutput seq seqh sel csum s

end Sys2Proof.Machine
end

