-- ==== Sys2Proof/Machine/Step.lean ====
section
/-! DEFINITION. One step: the next transaction of the host, and where the host places one. -/

namespace Sys2Proof.Machine

/-- One step takes the next thing the host presents (00_scope.md R8): a request or a frame, decoded and executed, or the
reset input. "Between two operations nothing changes", so with nothing presented the state stays (log entry 1). -/
def step (s : State) : Host.Outcome State Fault Refusal :=
  match s.pending with
  | [] => .next s
  | .reset :: rest => .next (applyReset (setPending rest s))
  | .present e :: rest =>
    match decode e with
    | .ok i => exec i (setPending rest s)
    | .error why => takeUndecodable why (setPending rest s)

/-- `s` with the transaction whose table bits are `w` as the next one presented (log entries 2, 6). -/
def State.withFetchWord (s : State) (nbits w : Nat) : State :=
  match tableEncoded nbits w with
  | none => s
  | some e => setPending (.present e :: s.pending) s

end Sys2Proof.Machine
end

