-- ==== Sys2Proof/Safety.lean ====
section
/-! DEFINITION. The terms statements use: the registers a state shows, the spec's own pseudocode and tables where a
statement compares the model with them, and the states the rules call legal. -/

namespace Sys2Proof.Machine

/-! ### The spec's pseudocode for `checksum16`, on unbounded integers with explicit masks -/

/-- `crc_round(crc)` as 40_checksum.md R103 writes it. -/
def natRound (crc : Nat) : Nat :=
  if crc.testBit 15 then ((crc <<< 1) ^^^ 0x1021) &&& 0xFFFF else (crc <<< 1) &&& 0xFFFF

/-- `crc_byte(crc, b)` as R102 writes it. -/
def natByte (crc b : Nat) : Nat := Nat.repeat natRound 8 (crc ^^^ (b <<< 8))

/-- `checksum16(d)` as R106 writes it. -/
def natChecksum (d : List Nat) : Nat := if d = [] then 0x0000 else d.foldl natByte 0xFFFF

/-! ### The table of well-formed UTF-8 -/

/-- A concatenation of sequences from the table of 30_encoding.md R81, one constructor a row. -/
inductive Utf8Text : List Octet → Prop where
  | nil : Utf8Text []
  | row1 {b0 t} : 0x00#8 ≤ b0 → b0 ≤ 0x7F#8 → Utf8Text t → Utf8Text (b0 :: t)
  | row2 {b0 b1 t} : 0xC2#8 ≤ b0 → b0 ≤ 0xDF#8 → 0x80#8 ≤ b1 → b1 ≤ 0xBF#8 → Utf8Text t →
      Utf8Text (b0 :: b1 :: t)
  | row3 {b1 b2 t} : 0xA0#8 ≤ b1 → b1 ≤ 0xBF#8 → 0x80#8 ≤ b2 → b2 ≤ 0xBF#8 → Utf8Text t →
      Utf8Text (0xE0#8 :: b1 :: b2 :: t)
  | row4 {b0 b1 b2 t} : 0xE1#8 ≤ b0 → b0 ≤ 0xEC#8 → 0x80#8 ≤ b1 → b1 ≤ 0xBF#8 → 0x80#8 ≤ b2 →
      b2 ≤ 0xBF#8 → Utf8Text t → Utf8Text (b0 :: b1 :: b2 :: t)
  | row5 {b1 b2 t} : 0x80#8 ≤ b1 → b1 ≤ 0x9F#8 → 0x80#8 ≤ b2 → b2 ≤ 0xBF#8 → Utf8Text t →
      Utf8Text (0xED#8 :: b1 :: b2 :: t)
  | row6 {b0 b1 b2 t} : 0xEE#8 ≤ b0 → b0 ≤ 0xEF#8 → 0x80#8 ≤ b1 → b1 ≤ 0xBF#8 → 0x80#8 ≤ b2 →
      b2 ≤ 0xBF#8 → Utf8Text t → Utf8Text (b0 :: b1 :: b2 :: t)
  | row7 {b1 b2 b3 t} : 0x90#8 ≤ b1 → b1 ≤ 0xBF#8 → 0x80#8 ≤ b2 → b2 ≤ 0xBF#8 → 0x80#8 ≤ b3 →
      b3 ≤ 0xBF#8 → Utf8Text t → Utf8Text (0xF0#8 :: b1 :: b2 :: b3 :: t)
  | row8 {b0 b1 b2 b3 t} : 0xF1#8 ≤ b0 → b0 ≤ 0xF3#8 → 0x80#8 ≤ b1 → b1 ≤ 0xBF#8 → 0x80#8 ≤ b2 →
      b2 ≤ 0xBF#8 → 0x80#8 ≤ b3 → b3 ≤ 0xBF#8 → Utf8Text t → Utf8Text (b0 :: b1 :: b2 :: b3 :: t)
  | row9 {b1 b2 b3 t} : 0x80#8 ≤ b1 → b1 ≤ 0x8F#8 → 0x80#8 ≤ b2 → b2 ≤ 0xBF#8 → 0x80#8 ≤ b3 →
      b3 ≤ 0xBF#8 → Utf8Text t → Utf8Text (0xF4#8 :: b1 :: b2 :: b3 :: t)

/-! ### What stands in a status frame -/

/-- The octet of a frame at an offset (inside the frame wherever a statement uses it). -/
abbrev octetAt (rxf : List Octet) (a : Nat) : Octet := rxf.getD a 0#8

/-- The `n` octets of a frame from an offset. -/
abbrev fieldAt (rxf : List Octet) (a n : Nat) : List Octet := (rxf.drop a).take n

/-- The flag octet of channel `i` is `'1'` (30_encoding.md R66). -/
abbrev flaggedIn (rxf : List Octet) (i : Nat) : Prop := octetAt rxf (52 + 17 * i) = 0x31#8

/-- The frame's length is admitted: `512 ≤ N ≤ STATUS_BUF_OCTETS` (41_status_decoder.md R121). -/
abbrev LengthAdmitted (s : State) (rxf : List Octet) : Prop :=
  512 ≤ rxf.length ∧ rxf.length ≤ s.config.statusBufOctets

/-- The device name and the names of the enabled channels are well-formed (R123). -/
abbrev TextsWellFormed (rxf : List Octet) : Prop :=
  utf8Wf (fieldAt rxf 19 31) = true ∧
  ∀ i : Fin 15, flaggedIn rxf i.val → utf8Wf (fieldAt rxf (53 + 17 * i.val) 16) = true

/-- The transmitted checksum of a frame (30_encoding.md R68). -/
abbrev transmittedIn (rxf : List Octet) : BitVec 16 :=
  octetAt rxf (rxf.length - 2) ++ octetAt rxf (rxf.length - 1)

/-- The computed checksum of a frame (R131). -/
abbrev computedOf (rxf : List Octet) : BitVec 16 := checksum16 (rxf.take (rxf.length - 2))

/-! ### Operations, commands and frames -/

/-- The four SEND operations. -/
def isSend : Instr → Bool
  | .sendTogglePower => true
  | .sendToggleMute => true
  | .sendSetVolume _ => true
  | .sendSetOutput _ => true
  | _ => false

/-- The operation DECODE_STATUS. -/
def isDecodeStatus : Instr → Bool
  | .decodeStatus _ _ => true
  | _ => false

/-- Octets 6 and 7 and the payload of a command the encoder builds (30_encoding.md R72 to R74). -/
inductive EncoderCommand : Octet → Octet → BitVec 16 → Prop where
  | togglePower (powered : Bool) : EncoderCommand (if powered then 0x00#8 else 0x01#8) 0x01#8 0x0000#16
  | toggleMute (muted : Bool) : EncoderCommand (if muted then 0x00#8 else 0x01#8) 0x07#8 0x0000#16
  | setVolume (h : BitVec 16) : EncoderCommand 0x00#8 0x04#8 (dbToRegister h.toInt)
  | setOutput (i : BitVec 4) : EncoderCommand 0x00#8 0x05#8 (outputPayload i)

/-- The twelve registers of 10_state.md R10 agree. -/
structure SameRegisters (s t : State) : Prop where
  seq : t.seq = s.seq
  connected : t.connected = s.connected
  srcValid : t.srcValid = s.srcValid
  srcAddr : t.srcAddr = s.srcAddr
  name : t.name = s.name
  chPresent : t.chPresent = s.chPresent
  chName : t.chName = s.chName
  powered : t.powered = s.powered
  muted : t.muted = s.muted
  activeCh : t.activeCh = s.activeCh
  volRaw : t.volRaw = s.volRaw
  csumOk : t.csumOk = s.csumOk

/-- The command frame of R70 to R76 as one list: command octets `a` and `b`, payload `p`, sequence value `v`, and the
checksum of its own offsets 0 to 11 at offsets 12 and 13. -/
def wireFrame (a b : Octet) (p : BitVec 16) (v : BitVec 8) : List Octet :=
  frameOctets v (v >>> 1) a b p (checksum16 (frameCover v (v >>> 1) a b p))

/-- The `n` emissions of one SEND operation, in order, to `dst` at port 45455, with sequence values `v`, `v+1`, …
(42_command_encoder.md R153, R156; 20_memory.md R51). -/
def emissions (dst : BitVec 32) (a b : Octet) (p : BitVec 16) : Nat → BitVec 8 → List Event
  | 0, _ => []
  | n + 1, v => .emit ⟨dst, 45455#16, wireFrame a b p v⟩ :: emissions dst a b p n (v + 1#8)

/-- The legal states: the invariants of 10_state.md R21 (a), (f), R14 (`NAME` is well-formed UTF-8), the constraint of
00_scope.md R5, the canonical form of `TXF`, and every datagram of the transmit history one the encoder can have produced
(30_encoding.md R82), of 142 octets (R83), to the command port (42_command_encoder.md R156). -/
structure State.Inv (s : State) : Prop where
  /-- R21 (a): `CONNECTED = 1` implies `SRC_VALID = 1`. -/
  connected_has_source : s.connected = true → s.srcValid = true
  /-- R21 (f): `SEQ` is a multiple of 4. -/
  seq_multiple_of_four : s.seq.toNat % 4 = 0
  /-- R14: `NAME` is well-formed UTF-8 (the reset octets are, too). -/
  name_utf8 : utf8Wf s.name.toList = true
  /-- R123, R126: so is the name of every channel in the table. -/
  channel_utf8 : ∀ i : Fin 15, s.chPresent[i] = true → utf8Wf s.chName[i].toList = true
  /-- R5: the constraint on `STATUS_BUF_OCTETS`. -/
  config_legal : s.config.Legal
  /-- `TXF` keeps its canonical form. -/
  txf_wf : Memory.wf s.txf = true
  /-- R82, R83, R156: the transmit history holds command frames only. -/
  sent_producible : ∀ d ∈ s.sent, d.port = 45455#16 ∧ d.octets.length = 142 ∧
    classifyFrame d.octets ≠ FrameReport.notProducible

end Sys2Proof.Machine
end

