-- ==== Sys2Proof/Certificates/Slice0/Obligations.lean ====
section
/-! DEFINITION. The statements for the provers. -/

open Sys2Proof Sys2Proof.Machine

/-! ### Encodings -/

/-- No bit of an encoding is dropped: a well-formed instruction, encoded, decodes to itself. -/
def Obligations.DecodeOfEncodeIsTheInstruction : Prop :=
  ∀ i : Instr, i.wellFormed = true → decode (encode i) = .ok i

/-- Each transaction has one meaning: what decodes is the encoding of the instruction it decodes to, and that instruction
is well-formed. -/
def Obligations.DecodedTransactionIsItsEncoding : Prop :=
  ∀ (e : Encoded) (i : Instr), decode e = .ok i → encode i = e ∧ i.wellFormed = true

/-- Request words of 95_test_vectors.md and a command frame of R157, decoded. -/
def Obligations.SampleWordsDecode : Prop :=
  decode (.request [.word 0x00000002#32, .octet 0x31#8, .octet 0x32#8]) = .ok (.crc16 [0x31#8, 0x32#8]) ∧
  decode (.request [.word 0x10000000#32]) = .ok .sendTogglePower ∧
  decode (.request [.word 0x20000001#32, .word 0xC0A80132#32, .octet 0xAB#8])
    = .ok (.decodeStatus 0xC0A80132#32 [0xAB#8]) ∧
  decode (.request [.word 0x30000000#32]) = .ok .rxTimeout ∧
  decode (.request [.word 0x4000FFD8#32]) = .ok (.sendSetVolume (BitVec.ofInt 16 (-40))) ∧
  decode (.request [.word 0x50000009#32]) = .ok (.sendSetOutput 9#4) ∧
  decode (.request [.word 0x6000FFD3#32]) = .ok (.db2reg (BitVec.ofInt 16 (-45))) ∧
  decode (.request [.word 0x70000000#32]) = .ok .sendToggleMute ∧
  decode (.request [.word 0x80000096#32]) = .ok (.reg2db 150#8) ∧
  decode (.frame ([0x44#8, 0x72#8, 0x00#8, 0x00#8, 0x00#8, 0x00#8, 0x01#8, 0x01#8, 0x00#8, 0x00#8, 0x00#8,
    0x00#8, 0xA0#8, 0xBD#8] ++ List.replicate 128 0x00#8)) = .ok (.cmdTogglePower 0#8 0#7 true 0xA0BD#16)

/-- R77, R206: which request words are illegal, and what the machine does with one: it answers ILLEGAL_OP, whatever operand
data came with it, and they leave with their transaction (log entry 4). -/
def Obligations.IllegalRequestsAreAnsweredIllegalOp : Prop :=
  ∀ (s : State) (w : BitVec 32) (data : List PortUnit) (rest : List Input),
    s.pending = .present (.request (.word w :: data)) :: rest →
    let op := (w >>> 28).toNat
    let arg := w.toNat % 65536
    let illegal := 9 ≤ op ∨ w.extractLsb' 16 12 ≠ 0#12 ∨ ((op = 1 ∨ op = 3 ∨ op = 7) ∧ arg ≠ 0) ∨
      (op = 5 ∧ 16 ≤ arg) ∨ (op = 8 ∧ 256 ≤ arg)
    (illegal → step s = .next { s with
      pending := rest
      outputs := s.outputs ++ [.response 0x40000000#32] }) ∧
    (¬ illegal → ∀ why, decode (.request (.word w :: data)) = .error why → why.illegal = false)

/-! ### One step -/

/-- A step runs the decoded instruction on the state from which its transaction is taken. -/
def Obligations.StepRunsTheDecodedInstruction : Prop :=
  ∀ (s : State) (e : Encoded) (rest : List Input) (i : Instr),
    s.pending = .present e :: rest → decode e = .ok i →
    step s = exec i { s with pending := rest }

/-- The model's choice (log entry 1): with nothing presented a step changes nothing. -/
def Obligations.NothingPresentedChangesNothing : Prop :=
  ∀ s : State, s.pending = [] → step s = .next s

/-- The model's choice (log entry 3): a transaction that is no request is refused under its reason. -/
def Obligations.TransactionThatIsNoRequestIsRefused : Prop :=
  ∀ (s : State) (e : Encoded) (rest : List Input) (why : DecodeError),
    s.pending = .present e :: rest → decode e = .error why → why.illegal = false →
    why ≠ .notCommandFrame → step s = .refused (.notARequest why)

/-- The model's choice to run R82's classifier on a command frame presented to it (log entry 5): the verdict is reported and
nothing else changes, for every list of octets. -/
def Obligations.PresentedFramesAreClassified : Prop :=
  ∀ (s : State) (octets : List Octet) (rest : List Input),
    s.pending = .present (.frame octets) :: rest →
    step s = .next { s with pending := rest, outputs := s.outputs ++ [.report (classifyFrame octets)] }

/-- R26: the twelve registers after reset. -/
def Obligations.ResetRegisterValues : Prop :=
  State.reset.seq = 0x00#8 ∧ State.reset.srcValid = false ∧
  (∀ i : Fin 15, State.reset.chPresent[i] = false) ∧ State.reset.connected = false ∧
  State.reset.srcAddr = 0x00000000#32 ∧ (∀ j : Fin 31, State.reset.name[j] = 0x00#8) ∧
  (∀ (i : Fin 15) (j : Fin 16), (State.reset.chName[i])[j] = 0x00#8) ∧
  State.reset.powered = false ∧ State.reset.muted = false ∧ State.reset.activeCh = 0#4 ∧
  State.reset.volRaw = 0x00#8 ∧ State.reset.csumOk = false

/-- R230, taken between operations (log entry 10): the reset input puts every register at its reset value and recalls no
datagram; the parameters and what the host has yet to present stay. -/
def Obligations.ResetInputRestoresTheRegisters : Prop :=
  ∀ (s : State) (rest : List Input), s.pending = .reset :: rest →
    ∃ t, step s = .next t ∧ SameRegisters State.reset t ∧ t.outputs = s.outputs ∧
      t.pending = rest ∧ t.config = s.config

/-! ### The Checksum Unit -/

/-- R107: CRC16 is encoded by its length and its octets, answers `checksum16` of them and writes nothing. -/
def Obligations.Crc16AnswersTheChecksum : Prop :=
  ∀ crcin : List Octet,
    (crcin.length ≤ 65535 →
      encode (.crc16 crcin) = .request (.word (BitVec.ofNat 32 crcin.length) :: crcin.map .octet)) ∧
    ∀ s : State, exec (.crc16 crcin) s =
      .next { s with outputs := s.outputs ++ [.response (0x0000#16 ++ checksum16 crcin)] }

/-- R102 to R106: the unit computes the spec's pseudocode, bit for bit, on every sequence. -/
def Obligations.ChecksumIsThePseudocode : Prop :=
  ∀ d : List Octet, (checksum16 d).toNat = natChecksum (d.map BitVec.toNat)

/-- R109, an inference of the spec's own from R102 to R104: a message followed by two octets has checksum 0 exactly where
they are its own checksum, high octet first, so that comparing and testing for zero agree. -/
def Obligations.ResidueIsZeroExactlyAfterTheChecksum : Prop :=
  ∀ (m : List Octet) (hi lo : Octet), m ≠ [] →
    (checksum16 (m ++ [hi, lo]) = 0x0000#16 ↔ hi ++ lo = checksum16 m)

/-! ### The Volume Codec -/

/-- R187: DB2REG is encoded by its operand, answers `db_to_register` of it as a signed number and writes nothing. -/
def Obligations.Db2regAnswersTheRegister : Prop :=
  ∀ h : BitVec 16, encode (.db2reg h) = .request [.word (0x6000#16 ++ h)] ∧
    ∀ s : State, exec (.db2reg h) s =
      .next { s with outputs := s.outputs ++ [.response (0x0000#16 ++ dbToRegister h.toInt)] }

/-- R190: REG2DB is encoded by its operand, answers the level `v − 195` in two's complement and writes nothing. -/
def Obligations.Reg2dbAnswersTheLevel : Prop :=
  ∀ v : BitVec 8, encode (.reg2db v) = .request [.word (0x800000#24 ++ v)] ∧
    ∀ s : State, ∃ r : BitVec 16, r.toInt = (v.toNat : Int) - 195 ∧
      exec (.reg2db v) s = .next { s with outputs := s.outputs ++ [.response (0x0000#16 ++ r)] }

/-- R183: `clog2(k)` is the least `s` with `2^s ≥ k`, and the increment of step `k` is `256 >> clog2(k)`, as
in the table the spec derives from the formula. -/
def Obligations.IncrementFollowsTheLeastExponent : Prop :=
  (∀ k : Nat, k ≤ 2 ^ clog2 k ∧ ∀ s : Nat, k ≤ 2 ^ s → clog2 k ≤ s) ∧
  (∀ s k : Nat, 1 ≤ s → 2 ^ (s - 1) < k → k ≤ 2 ^ s → inc k = 256 / 2 ^ s) ∧
  (∀ k : Nat, 257 ≤ k → inc k = 0)

/-- R185's sentence that its loop equals the recursion of R184 for every `K` (an inference of the spec's own, by induction),
for the loop to `K` and for the one that stops at 256. -/
def Obligations.MagnitudeLoopIsTheRecursion : Prop :=
  ∀ K : Nat, mag K = (if K = 0 then 0x0000 else magSteps (K - 1) 2 0x3F00) ∧ magLoop K = mag K

/-- R188, an inference of the spec's own from R183 to R185: within each band the magnitude is linear. -/
def Obligations.MagnitudeIsLinearInEachBand : Prop :=
  mag 0 = 0x0000 ∧ (∀ j : Nat, j ≤ 8 → mag (2 ^ j) = 0x3F00 + 0x80 * j) ∧
  ∀ K : Nat, 2 ≤ K → K ≤ 256 → 1 ≤ clog2 K ∧ clog2 K ≤ 8 ∧
    mag K = 0x3F00 + 0x80 * (clog2 K - 1) + (K - 2 ^ (clog2 K - 1)) * (256 >>> clog2 K)

/-- R189, an inference of the spec's own from R183: the magnitude saturates at 256, is strictly increasing below, and gives
`db_to_register` its range of 238 values. -/
def Obligations.MagnitudeSaturatesAndIncreases : Prop :=
  (∀ K : Nat, 256 ≤ K → mag K = 0x4300) ∧
  (∀ K L : Nat, 1 ≤ K → K < L → L ≤ 256 → mag K < mag L) ∧
  (∀ h : Int, h ≤ -256 → dbToRegister h = 0xC300#16) ∧
  (∀ h k : Int, -256 ≤ h → h ≤ -20 → -256 ≤ k → k ≤ -20 → dbToRegister h = dbToRegister k → h = k) ∧
  (∀ r : BitVec 16, (∃ h : Int, dbToRegister h = r) ↔
    r = 0x4120#16 ∨ ∃ K : Nat, 20 ≤ K ∧ K ≤ 256 ∧ r = 0x8000#16 ||| BitVec.ofNat 16 (mag K)) ∧
  (∃ values : List (BitVec 16), values.Nodup ∧ values.length = 238 ∧
    ∀ r : BitVec 16, r ∈ values ↔ ∃ h : Int, dbToRegister h = r) ∧
  (∀ h : Int, (dbToRegister h).toNat ≤ 0xC300)

/-- R186: the clamp, the magnitude, and the sign of the original operand; then the three consequences (a) to (c) that the
spec derives there from R182 to R185. -/
def Obligations.RegisterHasClampMagnitudeAndSign : Prop :=
  ∀ h : Int,
    (let K := (-(min h (-20))).toNat
     dbToRegister h = if h < 0 then BitVec.ofNat 16 (mag K) ||| 0x8000#16 else BitVec.ofNat 16 (mag K)) ∧
    (h ≤ -20 → dbToRegister h = 0x8000#16 ||| BitVec.ofNat 16 (mag h.natAbs)) ∧
    (-20 < h → h < 0 → dbToRegister h = 0xC120#16) ∧
    (0 ≤ h → dbToRegister h = 0x4120#16)

/-! ### The Status Decoder -/

/-- R205: a frame of a length that is not admitted aborts with FRAME_LENGTH and its length. -/
def Obligations.WrongLengthRaisesFrameLength : Prop :=
  ∀ (sender : BitVec 32) (rxf : List Octet) (s : State),
    (rxf.length < 512 ∨ s.config.statusBufOctets < rxf.length) →
    exec (.decodeStatus sender rxf) s = .next { s with
      outputs := s.outputs ++ [.response (0x3000#16 ++ BitVec.ofNat 16 rxf.length)] }

/-- R203: a malformed text field aborts, naming the first failing field; nothing else changes. -/
def Obligations.MalformedTextRaisesMalformedPayload : Prop :=
  ∀ (sender : BitVec 32) (rxf : List Octet) (s : State), LengthAdmitted s rxf →
    (utf8Wf (fieldAt rxf 19 31) = false →
      exec (.decodeStatus sender rxf) s = .next { s with
        outputs := s.outputs ++ [.response 0x2000001F#32] }) ∧
    (∀ i : Fin 15, utf8Wf (fieldAt rxf 19 31) = true →
      flaggedIn rxf i.val → utf8Wf (fieldAt rxf (53 + 17 * i.val) 16) = false →
      (∀ k : Fin 15, k < i → flaggedIn rxf k.val → utf8Wf (fieldAt rxf (53 + 17 * k.val) 16) = true) →
      exec (.decodeStatus sender rxf) s = .next { s with
        outputs := s.outputs ++ [.response (0x2000#16 ++ BitVec.ofNat 16 i.val)] })

/-- R124 to R132: DECODE_STATUS, whose request is OP 0x2 with the length as ARG, the word SENDER, then the octets of `RXF`
(R61 to R63), commits a frame of an admitted length whose texts are well-formed in full, whatever its checksum. -/
def Obligations.CommitWritesTheSnapshot : Prop :=
  ∀ (sender : BitVec 32) (rxf : List Octet),
    (rxf.length ≤ 65535 → encode (.decodeStatus sender rxf) =
      .request (.word (BitVec.ofNat 32 (0x20000000 + rxf.length)) :: .word sender :: rxf.map .octet)) ∧
    ∀ s : State, LengthAdmitted s rxf → TextsWellFormed rxf →
      ∃ t, exec (.decodeStatus sender rxf) s = .next t ∧
        t.connected = true ∧ t.srcAddr = sender ∧ t.srcValid = true ∧
        (∀ j : Fin 31, t.name[j] = octetAt rxf (19 + j.val)) ∧
        (∀ i : Fin 15, flaggedIn rxf i.val → t.chPresent[i] = true ∧
          ∀ j : Fin 16, (t.chName[i])[j] = octetAt rxf (53 + 17 * i.val + j.val)) ∧
        (∀ i : Fin 15, ¬ flaggedIn rxf i.val → t.chPresent[i] = s.chPresent[i] ∧ t.chName[i] = s.chName[i]) ∧
        t.powered = (octetAt rxf 307).getLsbD 7 ∧ t.muted = (octetAt rxf 308).getLsbD 1 ∧
        t.activeCh.toNat = (octetAt rxf 308).toNat / 4 % 16 ∧ t.volRaw = octetAt rxf 310 ∧
        t.csumOk = decide (computedOf rxf = transmittedIn rxf) ∧
        t.outputs = s.outputs ++ [.response (if computedOf rxf = transmittedIn rxf then 0x00000000#32
          else 0x10000000#32)] ∧
        t.seq = s.seq ∧ t.txf = s.txf ∧ t.pending = s.pending ∧ t.config = s.config ∧
        t.freeCount = s.freeCount

/-- R137: `CSUM_OK` after a commit says what the recomputed checksum says, and a frame that passes does not pass with one
octet of its cover changed. -/
def Obligations.OneChangedOctetDoesNotPass : Prop :=
  ∀ (sender : BitVec 32) (rxf : List Octet) (s : State), LengthAdmitted s rxf →
    (∀ t, TextsWellFormed rxf → exec (.decodeStatus sender rxf) s = .next t →
      (t.csumOk = true ↔ computedOf rxf = transmittedIn rxf)) ∧
    (∀ (j : Nat) (v : Octet) (t u : State), j < rxf.length - 2 → v ≠ octetAt rxf j →
      exec (.decodeStatus sender rxf) s = .next t →
      t.outputs = s.outputs ++ [.response 0x00000000#32] →
      exec (.decodeStatus sender (rxf.set j v)) s = .next u →
      u.outputs ≠ s.outputs ++ [.response 0x00000000#32] ∧
        (TextsWellFormed (rxf.set j v) → u.csumOk = false))

/-- R136: the outcome of DECODE_STATUS depends on its operands only, but for the entries of channels that the frame does
not enable. -/
def Obligations.DecoderReadsNoRegister : Prop :=
  ∀ (sender : BitVec 32) (rxf : List Octet) (s s' t t' : State), s'.config = s.config →
    exec (.decodeStatus sender rxf) s = .next t → exec (.decodeStatus sender rxf) s' = .next t' →
    (∃ w, t.outputs = s.outputs ++ [.response w] ∧ t'.outputs = s'.outputs ++ [.response w]) ∧
    ((SameRegisters s t ∧ SameRegisters s' t') ∨
      (t'.connected = t.connected ∧ t'.srcAddr = t.srcAddr ∧ t'.srcValid = t.srcValid ∧
        t'.name = t.name ∧ t'.powered = t.powered ∧ t'.muted = t.muted ∧ t'.activeCh = t.activeCh ∧
        t'.volRaw = t.volRaw ∧ t'.csumOk = t.csumOk ∧
        ∀ i : Fin 15, flaggedIn rxf i.val → t'.chPresent[i] = t.chPresent[i] ∧ t'.chName[i] = t.chName[i]))

/-- R69: the octets and bits that the frame layout does not describe reach no register but `CSUM_OK`. -/
def Obligations.UndescribedOctetsReachNoRegister : Prop :=
  ∀ (sender : BitVec 32) (rxf rxf' : List Octet) (s t t' : State), rxf'.length = rxf.length →
    (∀ a, (19 ≤ a ∧ a ≤ 49) ∨ (52 ≤ a ∧ a ≤ 306) ∨ a = 310 → octetAt rxf' a = octetAt rxf a) →
    octetAt rxf' 307 &&& 0x80#8 = octetAt rxf 307 &&& 0x80#8 →
    octetAt rxf' 308 &&& 0x3E#8 = octetAt rxf 308 &&& 0x3E#8 →
    exec (.decodeStatus sender rxf) s = .next t → exec (.decodeStatus sender rxf') s = .next t' →
    SameRegisters { t with csumOk := t'.csumOk } t'

/-- R134: RX_TIMEOUT clears `CONNECTED`, answers OK and changes nothing else. -/
def Obligations.TimeoutClearsConnectedOnly : Prop :=
  encode .rxTimeout = .request [.word 0x30000000#32] ∧
  ∀ s : State, exec .rxTimeout s =
    .next { s with connected := false, outputs := s.outputs ++ [.response 0x00000000#32] }

/-- R81: `utf8_wf` is true exactly of the concatenations of sequences from the table. -/
def Obligations.Utf8CheckIsTheTable : Prop :=
  ∀ octets : List Octet, utf8Wf octets = true ↔ Utf8Text octets

/-! ### The Command Encoder -/

/-- R204, R151: not connected, a SEND operation answers OK and does nothing else. -/
def Obligations.DroppedCommandChangesNothing : Prop :=
  ∀ (i : Instr) (s : State), isSend i = true → s.connected = false →
    exec i s = .next { s with outputs := s.outputs ++ [.response 0x00000000#32] }

/-- R157: SEND_TOGGLE_POWER, not connected, only answers OK; connected, it emits four frames that request the opposite of
`POWERED`, with consecutive sequence values, then answers OK, and of the registers `SEQ` alone changes. -/
def Obligations.TogglePowerEmitsFourFrames : Prop :=
  encode .sendTogglePower = .request [.word 0x10000000#32] ∧
  (∀ s : State, s.connected = false →
    exec .sendTogglePower s = .next { s with outputs := s.outputs ++ [.response 0x00000000#32] }) ∧
  ∀ s : State, s.connected = true → ∃ m : Memory, Memory.wf m = true ∧
    exec .sendTogglePower s = .next { s with
      seq := s.seq + 4#8
      txf := m
      freeCount := s.freeCount + 1
      outputs := s.outputs
        ++ emissions s.srcAddr (if s.powered = false then 0x01#8 else 0x00#8) 0x01#8 0x0000#16 4
          (if s.config.seqPreIncrement then s.seq + 1#8 else s.seq)
        ++ [.response 0x00000000#32] }

/-- R158: the same for SEND_TOGGLE_MUTE and `MUTED`. -/
def Obligations.ToggleMuteEmitsFourFrames : Prop :=
  encode .sendToggleMute = .request [.word 0x70000000#32] ∧
  (∀ s : State, s.connected = false →
    exec .sendToggleMute s = .next { s with outputs := s.outputs ++ [.response 0x00000000#32] }) ∧
  ∀ s : State, s.connected = true → ∃ m : Memory, Memory.wf m = true ∧
    exec .sendToggleMute s = .next { s with
      seq := s.seq + 4#8
      txf := m
      freeCount := s.freeCount + 1
      outputs := s.outputs
        ++ emissions s.srcAddr (if s.muted = false then 0x01#8 else 0x00#8) 0x07#8 0x0000#16 4
          (if s.config.seqPreIncrement then s.seq + 1#8 else s.seq)
        ++ [.response 0x00000000#32] }

/-- R159: the same for SEND_SET_VOLUME, the payload being `db_to_register` of the operand. -/
def Obligations.SetVolumeEmitsFourFrames : Prop :=
  ∀ h : BitVec 16, encode (.sendSetVolume h) = .request [.word (0x4000#16 ++ h)] ∧
  (∀ s : State, s.connected = false →
    exec (.sendSetVolume h) s = .next { s with outputs := s.outputs ++ [.response 0x00000000#32] }) ∧
  ∀ s : State, s.connected = true → ∃ m : Memory, Memory.wf m = true ∧
    exec (.sendSetVolume h) s = .next { s with
      seq := s.seq + 4#8
      txf := m
      freeCount := s.freeCount + 1
      outputs := s.outputs
        ++ emissions s.srcAddr 0x00#8 0x04#8 (dbToRegister h.toInt) 4
          (if s.config.seqPreIncrement then s.seq + 1#8 else s.seq)
        ++ [.response 0x00000000#32] }

/-- R160: the same for SEND_SET_OUTPUT, the payload being R74's for the index. -/
def Obligations.SetOutputEmitsFourFrames : Prop :=
  ∀ i : BitVec 4, encode (.sendSetOutput i) = .request [.word (0x5000000#28 ++ i)] ∧
  (∀ s : State, s.connected = false →
    exec (.sendSetOutput i) s = .next { s with outputs := s.outputs ++ [.response 0x00000000#32] }) ∧
  ∀ s : State, s.connected = true → ∃ m : Memory, Memory.wf m = true ∧
    exec (.sendSetOutput i) s = .next { s with
      seq := s.seq + 4#8
      txf := m
      freeCount := s.freeCount + 1
      outputs := s.outputs
        ++ emissions s.srcAddr 0x00#8 0x05#8
          (if i.toNat ≤ 7 then 0x4000#16 + BitVec.ofNat 16 (32 * i.toNat)
           else 0x4100#16 + BitVec.ofNat 16 (16 * (i.toNat - 8))) 4
          (if s.config.seqPreIncrement then s.seq + 1#8 else s.seq)
        ++ [.response 0x00000000#32] }

/-- R70, R71, R75, R76: every octet of an emitted frame, offset by offset. -/
def Obligations.WireFrameOctetByOctet : Prop :=
  ∀ (a b : Octet) (p : BitVec 16) (v : BitVec 8), (wireFrame a b p v).length = 142 ∧
    octetAt (wireFrame a b p v) 0 = 0x44#8 ∧ octetAt (wireFrame a b p v) 1 = 0x72#8 ∧
    octetAt (wireFrame a b p v) 3 = v ∧ (octetAt (wireFrame a b p v) 5).toNat = v.toNat / 2 ∧
    octetAt (wireFrame a b p v) 6 = a ∧ octetAt (wireFrame a b p v) 7 = b ∧
    octetAt (wireFrame a b p v) 8 ++ octetAt (wireFrame a b p v) 9 = p ∧
    octetAt (wireFrame a b p v) 12 ++ octetAt (wireFrame a b p v) 13
      = checksum16 ((wireFrame a b p v).take 12) ∧
    ∀ x, x = 2 ∨ x = 4 ∨ x = 10 ∨ x = 11 ∨ (14 ≤ x ∧ x ≤ 141) → octetAt (wireFrame a b p v) x = 0x00#8

/-- R164, an inference of the spec's own from R153: two commands in succession that pass the guard emit eight datagrams with eight consecutive sequence values, and
eight distinct pairs of sequence octets. -/
def Obligations.TwoCommandsCarryEightSequenceValues : Prop :=
  ∀ (i j : Instr) (s t u : State), isSend i = true → isSend j = true → s.connected = true →
    exec i s = .next t → exec j t = .next u →
    ∃ ds : List Datagram, u.sent = s.sent ++ ds ∧ ds.length = 8 ∧
      (∀ (k : Nat) (d : Datagram), ds[k]? = some d →
        octetAt d.octets 3 = stampValue s + BitVec.ofNat 8 k ∧
        octetAt d.octets 5 = (stampValue s + BitVec.ofNat 8 k) >>> 1) ∧
      (ds.map fun d => (octetAt d.octets 3, octetAt d.octets 5)).Nodup

/-! ### The command frames -/

/-- The model's choice to run R82's classifier on a command frame presented to it (log entry 5): a toggle frame is
reported producible exactly where its sequence octets agree and its checksum is right; no register changes. -/
def Obligations.ToggleFramesAreClassified : Prop :=
  ∀ (seq : Octet) (seqh : BitVec 7) (a : Bool) (csum : BitVec 16) (s : State),
    let o5 : Octet := 0#1 ++ seqh
    let o6 : Octet := if a then 0x01#8 else 0x00#8
    exec (.cmdTogglePower seq seqh a csum) s = .next { s with outputs := s.outputs ++ [.report
      (if o5 = seq >>> 1 ∧ checksum16 [0x44#8, 0x72#8, 0#8, seq, 0#8, o5, o6, 0x01#8, 0#8, 0#8, 0#8, 0#8] = csum
       then .producible seq (.power a) else .notProducible)] } ∧
    exec (.cmdToggleMute seq seqh a csum) s = .next { s with outputs := s.outputs ++ [.report
      (if o5 = seq >>> 1 ∧ checksum16 [0x44#8, 0x72#8, 0#8, seq, 0#8, o5, o6, 0x07#8, 0#8, 0#8, 0#8, 0#8] = csum
       then .producible seq (.mute a) else .notProducible)] }

/-- The same for a volume frame, whose payload must also be a value of the codec (log entry 5). -/
def Obligations.VolumeFramesAreClassified : Prop :=
  ∀ (seq : Octet) (seqh : BitVec 7) (payload csum : BitVec 16) (s : State), ∃ r : FrameReport,
    exec (.cmdSetVolume seq seqh payload csum) s = .next { s with outputs := s.outputs ++ [.report r] } ∧
    (r = .producible seq (.volume payload) ∨ r = .notProducible) ∧
    (r = .producible seq (.volume payload) ↔
      (0#1 ++ seqh : Octet) = seq >>> 1 ∧
      checksum16 [0x44#8, 0x72#8, 0#8, seq, 0#8, 0#1 ++ seqh, 0#8, 0x04#8, payload.extractLsb' 8 8,
        payload.extractLsb' 0 8, 0#8, 0#8] = csum ∧
      (payload = 0x4120#16 ∨ ∃ K : Nat, 20 ≤ K ∧ K ≤ 256 ∧ payload = 0x8000#16 ||| BitVec.ofNat 16 (mag K)))

/-- The same for an output frame, whose payload must also be one of the sixteen of R74 (log entry 5). -/
def Obligations.OutputFramesAreClassified : Prop :=
  ∀ (seq : Octet) (seqh : BitVec 7) (sel : BitVec 5) (csum : BitVec 16) (s : State), ∃ r : FrameReport,
    exec (.cmdSetOutput seq seqh sel csum) s = .next { s with outputs := s.outputs ++ [.report r] } ∧
    (r = .notProducible ∨ ∃ i, r = .producible seq (.output i)) ∧
    ∀ i : BitVec 4, r = .producible seq (.output i) ↔
      (0#1 ++ seqh : Octet) = seq >>> 1 ∧
      checksum16 [0x44#8, 0x72#8, 0#8, seq, 0#8, 0#1 ++ seqh, 0#8, 0x05#8,
        (selPayload sel).extractLsb' 8 8, (selPayload sel).extractLsb' 0 8, 0#8, 0#8] = csum ∧
      selPayload sel = outputPayload i

/-- R82, an inference of the spec's own from R70 to R76: the classifier accepts exactly the frames that the encoder's commands produce. -/
def Obligations.ClassifierAcceptsExactlyTheEncodersFrames : Prop :=
  ∀ octets : List Octet, classifyFrame octets ≠ .notProducible ↔
    ∃ (a b : Octet) (p : BitVec 16) (v : BitVec 8), EncoderCommand a b p ∧ octets = wireFrame a b p v

/-! ### The whole machine -/

/-- R45, R200: no operation generates an offset outside a buffer and none is fatal: every instruction completes in every
state. -/
def Obligations.EveryInstructionCompletes : Prop :=
  ∀ (i : Instr) (s : State), ∃ t, exec i s = .next t

/-- The legal states are kept by every step: R21 (a) and (f), which the spec derives from other rules, R5's constraint, the
well-formed text fields of R14, and a transmit history of command frames. -/
def Obligations.EveryStepKeepsTheLegalStates : Prop :=
  ∀ s t : State, s.Inv → step s = .next t → t.Inv

/-- The state after reset is legal. -/
def Obligations.ResetStateIsLegal : Prop := State.reset.Inv

/-- R25: which operations may write which registers. -/
def Obligations.OnlyTheNamedOperationsWriteARegister : Prop :=
  ∀ (i : Instr) (s t : State), exec i s = .next t →
    (t.seq ≠ s.seq → isSend i = true) ∧
    (t.connected ≠ s.connected → isDecodeStatus i = true ∨ i = .rxTimeout) ∧
    (t.txf ≠ s.txf → isSend i = true) ∧
    (isDecodeStatus i = false → SameRegisters { s with seq := t.seq, connected := t.connected } t) ∧
    t.pending = s.pending ∧ t.config = s.config

/-- R21 (b), (c), which the spec derives from R13 and R15: but for the reset input, no step forgets that a source is known or that a channel is present. -/
def Obligations.SourceAndChannelsAreNeverForgotten : Prop :=
  ∀ s t : State, s.pending.head? ≠ some .reset → step s = .next t →
    (s.srcValid = true → t.srcValid = true) ∧
    ∀ i : Fin 15, s.chPresent[i] = true → t.chPresent[i] = true

/-- R8, R51: what the outside has seen is never recalled, and a request gets exactly one response, after any datagrams. -/
def Obligations.EachRequestGetsOneResponseAtTheEnd : Prop :=
  ∀ s t : State, step s = .next t →
    (∃ es, t.outputs = s.outputs ++ es) ∧
    ∀ units rest, s.pending = .present (.request units) :: rest →
      ∃ (ds : List Datagram) (w : BitVec 32), (ds = [] ∨ ds.length = 4) ∧
        t.outputs = s.outputs ++ ds.map .emit ++ [.response w] ∧
        t.sent = s.sent ++ ds ∧ t.responses = s.responses ++ [w]

/-- R164, an inference of the spec's own from R153: the datagrams carry 0, 1, 2, … modulo 256 in the order of the transmit history, as long as no reset input comes
and with the default stamp order; stated as an invariant that every such step keeps. -/
def Obligations.NthDatagramCarriesItsNumber : Prop :=
  let counted : State → Prop := fun s =>
    s.seq.toNat = s.sent.length % 256 ∧
    ∀ (n : Nat) (d : Datagram), s.sent[n]? = some d → (octetAt d.octets 3).toNat = n % 256
  counted State.reset ∧
  ∀ s t : State, s.config.seqPreIncrement = false → s.pending.head? ≠ some .reset → counted s →
    step s = .next t → counted t

/-- R41: a 16-bit write of `TXF` stores the high octet at the lower offset and leaves every other octet alone, and a 16-bit
read of an operand buffer takes the high octet from the lower offset. -/
def Obligations.SixteenBitAccessesAreBigEndian : Prop :=
  (∀ (a : Nat) (v : BitVec 16) (s : State), Memory.wf s.txf = true → a + 1 < 142 →
    ∃ t, txfWrite2 a v s = some t ∧ Memory.wf t.txf = true ∧
      (memGet t.txf a).toNat = v.toNat / 256 ∧ (memGet t.txf (a + 1)).toNat = v.toNat % 256 ∧
      (∀ x, x ≠ a → x ≠ a + 1 → memGet t.txf x = memGet s.txf x) ∧ SameRegisters s t) ∧
  (∀ (S : List Octet) (a : Nat), a + 1 < S.length →
    ∃ r, bufRead2 S a = some r ∧ r.toNat = 256 * (octetAt S a).toNat + (octetAt S (a + 1)).toNat)
end

