-- ==== Sys2Proof/Laws/Bits.lean ====
section
/-! SUPPORT. Concatenated bit fields, taken apart and put together. -/

namespace Sys2Proof

theorem extract_append_low {n m : Nat} (x : BitVec n) (y : BitVec m) : (x ++ y).extractLsb' 0 m = y := by
  apply BitVec.eq_of_getLsbD_eq
  intro i hi
  simp only [BitVec.getLsbD_extractLsb', BitVec.getLsbD_append, Nat.zero_add, hi, decide_true,
    Bool.true_and, if_true]

theorem extract_append_shift {n m l : Nat} (x : BitVec n) (y : BitVec m) (s : Nat) :
    (x ++ y).extractLsb' (m + s) l = x.extractLsb' s l := by
  apply BitVec.eq_of_getLsbD_eq
  intro i hi
  simp only [BitVec.getLsbD_extractLsb', BitVec.getLsbD_append, hi, decide_true, Bool.true_and,
    show ¬ m + s + i < m by omega, if_false, show m + s + i - m = s + i by omega]

theorem extract_all {n : Nat} (x : BitVec n) : x.extractLsb' 0 n = x := by
  apply BitVec.eq_of_getLsbD_eq
  intro i hi
  simp only [BitVec.getLsbD_extractLsb', hi, decide_true, Bool.true_and, Nat.zero_add]

theorem extract_append_high {n m : Nat} (x : BitVec n) (y : BitVec m) : (x ++ y).extractLsb' m n = x := by
  have h := extract_append_shift (l := n) x y 0
  rw [Nat.add_zero] at h
  rw [h, extract_all]

theorem append_extract {n m : Nat} (x : BitVec (n + m)) : x.extractLsb' m n ++ x.extractLsb' 0 m = x := by
  apply BitVec.eq_of_getLsbD_eq
  intro i hi
  simp only [BitVec.getLsbD_append, BitVec.getLsbD_extractLsb', Nat.zero_add]
  split
  · next h => simp only [h, decide_true, Bool.true_and]
  · next h => simp only [show i - m < n by omega, decide_true, Bool.true_and, show m + (i - m) = i by omega]

theorem hiOctet_append (a b : Octet) : hiOctet (a ++ b) = a := extract_append_high a b

theorem loOctet_append (a b : Octet) : loOctet (a ++ b) = b := extract_append_low a b

theorem hiOctet_append_loOctet (v : BitVec 16) : hiOctet v ++ loOctet v = v := append_extract (n := 8) (m := 8) v

/-! ### The fields of a request word (30_encoding.md R61) -/

@[simp] theorem reqArg_reqWord (op : BitVec 4) (arg : BitVec 16) : reqArg (reqWord op arg) = arg :=
  extract_append_low _ _

@[simp] theorem reqRsv_reqWord (op : BitVec 4) (arg : BitVec 16) : reqRsv (reqWord op arg) = 0#12 :=
  (extract_append_shift (l := 12) (op ++ 0#12) arg 0).trans (extract_append_low op 0#12)

@[simp] theorem reqOp_reqWord (op : BitVec 4) (arg : BitVec 16) : reqOp (reqWord op arg) = op :=
  (extract_append_shift (l := 4) (op ++ 0#12) arg 12).trans (extract_append_high op 0#12)

/-- A request word whose `RSV` is zero is its fields put together. -/
theorem eq_reqWord {w : BitVec 32} (h : reqRsv w = 0#12) : w = reqWord (reqOp w) (reqArg w) := by
  rw [reqWord, ← h]
  apply BitVec.eq_of_getLsbD_eq
  intro i hi
  simp only [reqOp, reqRsv, reqArg, BitVec.getLsbD_append, BitVec.getLsbD_extractLsb', Nat.zero_add]
  by_cases h1 : i < 16
  · simp only [h1, decide_true, Bool.true_and, if_true]
  · simp only [h1, if_false]
    by_cases h2 : i - 16 < 12
    · simp only [h2, decide_true, Bool.true_and, if_true, show 16 + (i - 16) = i by omega]
    · simp only [h2, if_false, show i - 16 - 12 < 4 by omega, decide_true, Bool.true_and,
        show 28 + (i - 16 - 12) = i by omega]

end Sys2Proof
end

