-- ==== Sys2Proof/Laws/State.lean ====
section
/-! SUPPORT. What each named update of the state leaves in each field. -/

namespace Sys2Proof.Machine

section
variable (m : Memory) (s : State)

@[simp] theorem setTxf_seq : (setTxf m s).seq = s.seq := rfl
@[simp] theorem setTxf_connected : (setTxf m s).connected = s.connected := rfl
@[simp] theorem setTxf_srcValid : (setTxf m s).srcValid = s.srcValid := rfl
@[simp] theorem setTxf_srcAddr : (setTxf m s).srcAddr = s.srcAddr := rfl
@[simp] theorem setTxf_name : (setTxf m s).name = s.name := rfl
@[simp] theorem setTxf_chPresent : (setTxf m s).chPresent = s.chPresent := rfl
@[simp] theorem setTxf_chName : (setTxf m s).chName = s.chName := rfl
@[simp] theorem setTxf_powered : (setTxf m s).powered = s.powered := rfl
@[simp] theorem setTxf_muted : (setTxf m s).muted = s.muted := rfl
@[simp] theorem setTxf_activeCh : (setTxf m s).activeCh = s.activeCh := rfl
@[simp] theorem setTxf_volRaw : (setTxf m s).volRaw = s.volRaw := rfl
@[simp] theorem setTxf_csumOk : (setTxf m s).csumOk = s.csumOk := rfl
@[simp] theorem setTxf_txf : (setTxf m s).txf = m := rfl
@[simp] theorem setTxf_pending : (setTxf m s).pending = s.pending := rfl
@[simp] theorem setTxf_outputs : (setTxf m s).outputs = s.outputs := rfl
@[simp] theorem setTxf_config : (setTxf m s).config = s.config := rfl
@[simp] theorem setTxf_freeCount : (setTxf m s).freeCount = s.freeCount := rfl

end

section
variable (s : State)

@[simp] theorem forgetTxf_seq : (forgetTxf s).seq = s.seq := rfl
@[simp] theorem forgetTxf_connected : (forgetTxf s).connected = s.connected := rfl
@[simp] theorem forgetTxf_srcValid : (forgetTxf s).srcValid = s.srcValid := rfl
@[simp] theorem forgetTxf_srcAddr : (forgetTxf s).srcAddr = s.srcAddr := rfl
@[simp] theorem forgetTxf_name : (forgetTxf s).name = s.name := rfl
@[simp] theorem forgetTxf_chPresent : (forgetTxf s).chPresent = s.chPresent := rfl
@[simp] theorem forgetTxf_chName : (forgetTxf s).chName = s.chName := rfl
@[simp] theorem forgetTxf_powered : (forgetTxf s).powered = s.powered := rfl
@[simp] theorem forgetTxf_muted : (forgetTxf s).muted = s.muted := rfl
@[simp] theorem forgetTxf_activeCh : (forgetTxf s).activeCh = s.activeCh := rfl
@[simp] theorem forgetTxf_volRaw : (forgetTxf s).volRaw = s.volRaw := rfl
@[simp] theorem forgetTxf_csumOk : (forgetTxf s).csumOk = s.csumOk := rfl
@[simp] theorem forgetTxf_txf : (forgetTxf s).txf = memFill (Config.freeTxf s.freeCount) 142 0 := rfl
@[simp] theorem forgetTxf_pending : (forgetTxf s).pending = s.pending := rfl
@[simp] theorem forgetTxf_outputs : (forgetTxf s).outputs = s.outputs := rfl
@[simp] theorem forgetTxf_config : (forgetTxf s).config = s.config := rfl
@[simp] theorem forgetTxf_freeCount : (forgetTxf s).freeCount = s.freeCount + 1 := rfl

end

section
variable (v : BitVec 8) (s : State)

@[simp] theorem setSeq_seq : (setSeq v s).seq = v := rfl
@[simp] theorem setSeq_connected : (setSeq v s).connected = s.connected := rfl
@[simp] theorem setSeq_srcValid : (setSeq v s).srcValid = s.srcValid := rfl
@[simp] theorem setSeq_srcAddr : (setSeq v s).srcAddr = s.srcAddr := rfl
@[simp] theorem setSeq_name : (setSeq v s).name = s.name := rfl
@[simp] theorem setSeq_chPresent : (setSeq v s).chPresent = s.chPresent := rfl
@[simp] theorem setSeq_chName : (setSeq v s).chName = s.chName := rfl
@[simp] theorem setSeq_powered : (setSeq v s).powered = s.powered := rfl
@[simp] theorem setSeq_muted : (setSeq v s).muted = s.muted := rfl
@[simp] theorem setSeq_activeCh : (setSeq v s).activeCh = s.activeCh := rfl
@[simp] theorem setSeq_volRaw : (setSeq v s).volRaw = s.volRaw := rfl
@[simp] theorem setSeq_csumOk : (setSeq v s).csumOk = s.csumOk := rfl
@[simp] theorem setSeq_txf : (setSeq v s).txf = s.txf := rfl
@[simp] theorem setSeq_pending : (setSeq v s).pending = s.pending := rfl
@[simp] theorem setSeq_outputs : (setSeq v s).outputs = s.outputs := rfl
@[simp] theorem setSeq_config : (setSeq v s).config = s.config := rfl
@[simp] theorem setSeq_freeCount : (setSeq v s).freeCount = s.freeCount := rfl

end

section
variable (v : Bool) (s : State)

@[simp] theorem setConnected_seq : (setConnected v s).seq = s.seq := rfl
@[simp] theorem setConnected_connected : (setConnected v s).connected = v := rfl
@[simp] theorem setConnected_srcValid : (setConnected v s).srcValid = s.srcValid := rfl
@[simp] theorem setConnected_srcAddr : (setConnected v s).srcAddr = s.srcAddr := rfl
@[simp] theorem setConnected_name : (setConnected v s).name = s.name := rfl
@[simp] theorem setConnected_chPresent : (setConnected v s).chPresent = s.chPresent := rfl
@[simp] theorem setConnected_chName : (setConnected v s).chName = s.chName := rfl
@[simp] theorem setConnected_powered : (setConnected v s).powered = s.powered := rfl
@[simp] theorem setConnected_muted : (setConnected v s).muted = s.muted := rfl
@[simp] theorem setConnected_activeCh : (setConnected v s).activeCh = s.activeCh := rfl
@[simp] theorem setConnected_volRaw : (setConnected v s).volRaw = s.volRaw := rfl
@[simp] theorem setConnected_csumOk : (setConnected v s).csumOk = s.csumOk := rfl
@[simp] theorem setConnected_txf : (setConnected v s).txf = s.txf := rfl
@[simp] theorem setConnected_pending : (setConnected v s).pending = s.pending := rfl
@[simp] theorem setConnected_outputs : (setConnected v s).outputs = s.outputs := rfl
@[simp] theorem setConnected_config : (setConnected v s).config = s.config := rfl
@[simp] theorem setConnected_freeCount : (setConnected v s).freeCount = s.freeCount := rfl

end

section
variable (e : Event) (s : State)

@[simp] theorem observe_seq : (observe e s).seq = s.seq := rfl
@[simp] theorem observe_connected : (observe e s).connected = s.connected := rfl
@[simp] theorem observe_srcValid : (observe e s).srcValid = s.srcValid := rfl
@[simp] theorem observe_srcAddr : (observe e s).srcAddr = s.srcAddr := rfl
@[simp] theorem observe_name : (observe e s).name = s.name := rfl
@[simp] theorem observe_chPresent : (observe e s).chPresent = s.chPresent := rfl
@[simp] theorem observe_chName : (observe e s).chName = s.chName := rfl
@[simp] theorem observe_powered : (observe e s).powered = s.powered := rfl
@[simp] theorem observe_muted : (observe e s).muted = s.muted := rfl
@[simp] theorem observe_activeCh : (observe e s).activeCh = s.activeCh := rfl
@[simp] theorem observe_volRaw : (observe e s).volRaw = s.volRaw := rfl
@[simp] theorem observe_csumOk : (observe e s).csumOk = s.csumOk := rfl
@[simp] theorem observe_txf : (observe e s).txf = s.txf := rfl
@[simp] theorem observe_pending : (observe e s).pending = s.pending := rfl
@[simp] theorem observe_outputs : (observe e s).outputs = s.outputs ++ [e] := rfl
@[simp] theorem observe_config : (observe e s).config = s.config := rfl
@[simp] theorem observe_freeCount : (observe e s).freeCount = s.freeCount := rfl

end

section
variable (d : Datagram) (s : State)

@[simp] theorem emit_seq : (emit d s).seq = s.seq := rfl
@[simp] theorem emit_connected : (emit d s).connected = s.connected := rfl
@[simp] theorem emit_srcValid : (emit d s).srcValid = s.srcValid := rfl
@[simp] theorem emit_srcAddr : (emit d s).srcAddr = s.srcAddr := rfl
@[simp] theorem emit_name : (emit d s).name = s.name := rfl
@[simp] theorem emit_chPresent : (emit d s).chPresent = s.chPresent := rfl
@[simp] theorem emit_chName : (emit d s).chName = s.chName := rfl
@[simp] theorem emit_powered : (emit d s).powered = s.powered := rfl
@[simp] theorem emit_muted : (emit d s).muted = s.muted := rfl
@[simp] theorem emit_activeCh : (emit d s).activeCh = s.activeCh := rfl
@[simp] theorem emit_volRaw : (emit d s).volRaw = s.volRaw := rfl
@[simp] theorem emit_csumOk : (emit d s).csumOk = s.csumOk := rfl
@[simp] theorem emit_txf : (emit d s).txf = s.txf := rfl
@[simp] theorem emit_pending : (emit d s).pending = s.pending := rfl
@[simp] theorem emit_outputs : (emit d s).outputs = s.outputs ++ [.emit d] := rfl
@[simp] theorem emit_config : (emit d s).config = s.config := rfl
@[simp] theorem emit_freeCount : (emit d s).freeCount = s.freeCount := rfl

end

section
variable (c : RspCode) (v : BitVec 16) (s : State)

@[simp] theorem respond_seq : (respond c v s).seq = s.seq := rfl
@[simp] theorem respond_connected : (respond c v s).connected = s.connected := rfl
@[simp] theorem respond_srcValid : (respond c v s).srcValid = s.srcValid := rfl
@[simp] theorem respond_srcAddr : (respond c v s).srcAddr = s.srcAddr := rfl
@[simp] theorem respond_name : (respond c v s).name = s.name := rfl
@[simp] theorem respond_chPresent : (respond c v s).chPresent = s.chPresent := rfl
@[simp] theorem respond_chName : (respond c v s).chName = s.chName := rfl
@[simp] theorem respond_powered : (respond c v s).powered = s.powered := rfl
@[simp] theorem respond_muted : (respond c v s).muted = s.muted := rfl
@[simp] theorem respond_activeCh : (respond c v s).activeCh = s.activeCh := rfl
@[simp] theorem respond_volRaw : (respond c v s).volRaw = s.volRaw := rfl
@[simp] theorem respond_csumOk : (respond c v s).csumOk = s.csumOk := rfl
@[simp] theorem respond_txf : (respond c v s).txf = s.txf := rfl
@[simp] theorem respond_pending : (respond c v s).pending = s.pending := rfl
@[simp] theorem respond_outputs : (respond c v s).outputs = s.outputs ++ [.response (rspWord c v)] := rfl
@[simp] theorem respond_config : (respond c v s).config = s.config := rfl
@[simp] theorem respond_freeCount : (respond c v s).freeCount = s.freeCount := rfl

end

section
variable (e : Raised) (s : State)

@[simp] theorem raise_seq : (raise e s).seq = s.seq := rfl
@[simp] theorem raise_connected : (raise e s).connected = s.connected := rfl
@[simp] theorem raise_srcValid : (raise e s).srcValid = s.srcValid := rfl
@[simp] theorem raise_srcAddr : (raise e s).srcAddr = s.srcAddr := rfl
@[simp] theorem raise_name : (raise e s).name = s.name := rfl
@[simp] theorem raise_chPresent : (raise e s).chPresent = s.chPresent := rfl
@[simp] theorem raise_chName : (raise e s).chName = s.chName := rfl
@[simp] theorem raise_powered : (raise e s).powered = s.powered := rfl
@[simp] theorem raise_muted : (raise e s).muted = s.muted := rfl
@[simp] theorem raise_activeCh : (raise e s).activeCh = s.activeCh := rfl
@[simp] theorem raise_volRaw : (raise e s).volRaw = s.volRaw := rfl
@[simp] theorem raise_csumOk : (raise e s).csumOk = s.csumOk := rfl
@[simp] theorem raise_txf : (raise e s).txf = s.txf := rfl
@[simp] theorem raise_pending : (raise e s).pending = s.pending := rfl
@[simp] theorem raise_outputs : (raise e s).outputs = s.outputs ++ [.response (rspWord (raisedCode e) (raisedValue e))] := rfl
@[simp] theorem raise_config : (raise e s).config = s.config := rfl
@[simp] theorem raise_freeCount : (raise e s).freeCount = s.freeCount := rfl

end

section
variable (p : List Input) (s : State)

@[simp] theorem setPending_seq : (setPending p s).seq = s.seq := rfl
@[simp] theorem setPending_connected : (setPending p s).connected = s.connected := rfl
@[simp] theorem setPending_srcValid : (setPending p s).srcValid = s.srcValid := rfl
@[simp] theorem setPending_srcAddr : (setPending p s).srcAddr = s.srcAddr := rfl
@[simp] theorem setPending_name : (setPending p s).name = s.name := rfl
@[simp] theorem setPending_chPresent : (setPending p s).chPresent = s.chPresent := rfl
@[simp] theorem setPending_chName : (setPending p s).chName = s.chName := rfl
@[simp] theorem setPending_powered : (setPending p s).powered = s.powered := rfl
@[simp] theorem setPending_muted : (setPending p s).muted = s.muted := rfl
@[simp] theorem setPending_activeCh : (setPending p s).activeCh = s.activeCh := rfl
@[simp] theorem setPending_volRaw : (setPending p s).volRaw = s.volRaw := rfl
@[simp] theorem setPending_csumOk : (setPending p s).csumOk = s.csumOk := rfl
@[simp] theorem setPending_txf : (setPending p s).txf = s.txf := rfl
@[simp] theorem setPending_pending : (setPending p s).pending = p := rfl
@[simp] theorem setPending_outputs : (setPending p s).outputs = s.outputs := rfl
@[simp] theorem setPending_config : (setPending p s).config = s.config := rfl
@[simp] theorem setPending_freeCount : (setPending p s).freeCount = s.freeCount := rfl

end

section
variable (s : State)

@[simp] theorem applyReset_seq : (applyReset s).seq = State.reset.seq := rfl
@[simp] theorem applyReset_connected : (applyReset s).connected = State.reset.connected := rfl
@[simp] theorem applyReset_srcValid : (applyReset s).srcValid = State.reset.srcValid := rfl
@[simp] theorem applyReset_srcAddr : (applyReset s).srcAddr = State.reset.srcAddr := rfl
@[simp] theorem applyReset_name : (applyReset s).name = State.reset.name := rfl
@[simp] theorem applyReset_chPresent : (applyReset s).chPresent = State.reset.chPresent := rfl
@[simp] theorem applyReset_chName : (applyReset s).chName = State.reset.chName := rfl
@[simp] theorem applyReset_powered : (applyReset s).powered = State.reset.powered := rfl
@[simp] theorem applyReset_muted : (applyReset s).muted = State.reset.muted := rfl
@[simp] theorem applyReset_activeCh : (applyReset s).activeCh = State.reset.activeCh := rfl
@[simp] theorem applyReset_volRaw : (applyReset s).volRaw = State.reset.volRaw := rfl
@[simp] theorem applyReset_csumOk : (applyReset s).csumOk = State.reset.csumOk := rfl
@[simp] theorem applyReset_txf : (applyReset s).txf = memFill (Config.freeTxf s.freeCount) 142 0 := rfl
@[simp] theorem applyReset_pending : (applyReset s).pending = s.pending := rfl
@[simp] theorem applyReset_outputs : (applyReset s).outputs = s.outputs := rfl
@[simp] theorem applyReset_config : (applyReset s).config = s.config := rfl
@[simp] theorem applyReset_freeCount : (applyReset s).freeCount = s.freeCount + 1 := rfl

end

section
variable (a : BitVec 32) (f : StatusFields) (s : State)

@[simp] theorem commitStatus_seq : (commitStatus a f s).seq = s.seq := rfl
@[simp] theorem commitStatus_connected : (commitStatus a f s).connected = true := rfl
@[simp] theorem commitStatus_srcValid : (commitStatus a f s).srcValid = true := rfl
@[simp] theorem commitStatus_srcAddr : (commitStatus a f s).srcAddr = a := rfl
@[simp] theorem commitStatus_name : (commitStatus a f s).name = f.name := rfl
@[simp] theorem commitStatus_chPresent : (commitStatus a f s).chPresent = vecOfFn fun i => if channelEnabled f i then true else s.chPresent[i] := rfl
@[simp] theorem commitStatus_chName : (commitStatus a f s).chName = vecOfFn fun i => if channelEnabled f i then channelName f i else s.chName[i] := rfl
@[simp] theorem commitStatus_powered : (commitStatus a f s).powered = flagPowered f.b307 := rfl
@[simp] theorem commitStatus_muted : (commitStatus a f s).muted = flagMuted f.b308 := rfl
@[simp] theorem commitStatus_activeCh : (commitStatus a f s).activeCh = fieldActive f.b308 := rfl
@[simp] theorem commitStatus_volRaw : (commitStatus a f s).volRaw = f.b310 := rfl
@[simp] theorem commitStatus_csumOk : (commitStatus a f s).csumOk = flagCsumOk f.cover f.transmitted := rfl
@[simp] theorem commitStatus_txf : (commitStatus a f s).txf = s.txf := rfl
@[simp] theorem commitStatus_pending : (commitStatus a f s).pending = s.pending := rfl
@[simp] theorem commitStatus_outputs : (commitStatus a f s).outputs = s.outputs := rfl
@[simp] theorem commitStatus_config : (commitStatus a f s).config = s.config := rfl
@[simp] theorem commitStatus_freeCount : (commitStatus a f s).freeCount = s.freeCount := rfl

end

end Sys2Proof.Machine
end

