-- ==== Sys2Proof/Laws/Buffers.lean ====
section
/-! SUPPORT. The buffers: a read after a write, what a write leaves alone, and the canonical form kept. -/

namespace Sys2Proof

@[simp] theorem vecOfFn_getElem {α : Type} {n : Nat} (f : Fin n → α) (i : Nat) (h : i < n) :
    (vecOfFn f)[i] = f ⟨i, h⟩ := by
  simp [vecOfFn]

@[simp] theorem withValue_eq {w : Nat} {α : Type} (x : BitVec w) (k : BitVec w → α) :
    withValue x k = k x := by
  unfold withValue
  split
  · next h => rw [show x = 0#w from BitVec.eq_of_toNat_eq (by simpa using h)]
  · next n h =>
    show k (BitVec.ofNat w n.succ) = k x
    rw [← h]; simp

namespace Machine

/-! ### Cells -/

@[simp] theorem memGet_nil (a : Nat) : memGet [] a = 0x00#8 := rfl

theorem memGet_cons (b : Nat) (w : Octet) (m : Memory) (a : Nat) :
    memGet ((b, w) :: m) a = if a = b then w else memGet m a := rfl

theorem wfFrom_cons {lo a : Nat} {v : Octet} {m : Memory} :
    Memory.wfFrom lo ((a, v) :: m) = true ↔
      lo ≤ a ∧ a < 142 ∧ v ≠ 0x00#8 ∧ Memory.wfFrom (a + 1) m = true := by
  simp [Memory.wfFrom, and_assoc]

theorem wfFrom_mono {lo hi : Nat} {m : Memory} (h : lo ≤ hi) (hm : Memory.wfFrom hi m = true) :
    Memory.wfFrom lo m = true := by
  cases m with
  | nil => rfl
  | cons c m =>
    obtain ⟨a, v⟩ := c
    rw [wfFrom_cons] at hm ⊢
    exact ⟨by omega, hm.2⟩

/-- Nothing is listed below the lower bound of a canonical buffer. -/
theorem memGet_below {lo a : Nat} {m : Memory} (hm : Memory.wfFrom lo m = true) (h : a < lo) :
    memGet m a = 0x00#8 := by
  induction m generalizing lo with
  | nil => rfl
  | cons c m ih =>
    obtain ⟨b, w⟩ := c
    rw [wfFrom_cons] at hm
    rw [memGet_cons, if_neg (by omega)]
    exact ih hm.2.2.2 (by omega)

/-- Writing an octet inside the buffer keeps the canonical form. -/
theorem wfFrom_memSet {lo a : Nat} {m : Memory} (v : Octet) (hlo : lo ≤ a) (ha : a < 142)
    (hm : Memory.wfFrom lo m = true) : Memory.wfFrom lo (memSet m a v) = true := by
  induction m generalizing lo with
  | nil =>
    by_cases hv : v = 0#8 <;> simp [memSet, Memory.wfFrom, hv, hlo, ha]
  | cons c m ih =>
    obtain ⟨b, w⟩ := c
    obtain ⟨h1, h2, h3, h4⟩ := wfFrom_cons.mp hm
    unfold memSet
    split
    · split
      · exact hm
      · next hb hv => exact wfFrom_cons.mpr ⟨hlo, ha, hv, wfFrom_cons.mpr ⟨by omega, h2, h3, h4⟩⟩
    · split
      · split
        · exact wfFrom_mono (by omega) h4
        · next hab hv => exact wfFrom_cons.mpr ⟨hlo, ha, hv, by subst hab; exact h4⟩
      · exact wfFrom_cons.mpr ⟨h1, h2, h3, ih (by omega) h4⟩

theorem wf_memSet {a : Nat} {m : Memory} (v : Octet) (ha : a < 142) (hm : Memory.wf m = true) :
    Memory.wf (memSet m a v) = true :=
  wfFrom_memSet v (Nat.zero_le a) ha hm

/-- A write, read back: the octet written at its offset, and every other offset as before. -/
theorem memGet_memSet {lo : Nat} {m : Memory} (hm : Memory.wfFrom lo m = true) (a : Nat) (v : Octet)
    (b : Nat) : memGet (memSet m a v) b = if b = a then v else memGet m b := by
  induction m generalizing lo with
  | nil =>
    by_cases hv : v = 0#8
    · simp [memSet, hv]
    · simp [memSet, hv, memGet_cons]
  | cons c m ih =>
    obtain ⟨d, w⟩ := c
    obtain ⟨h1, h2, h3, h4⟩ := wfFrom_cons.mp hm
    unfold memSet
    split
    · next had =>
      split
      · next hv =>
        split
        · next hb =>
          subst hb
          rw [memGet_cons, if_neg (by omega), memGet_below h4 (by omega), hv]
        · rfl
      · rw [memGet_cons]
    · split
      · next had =>
        subst had
        split
        · next hv =>
          split
          · next hb =>
            subst hb
            rw [memGet_below h4 (by omega), hv]
          · next hb => rw [memGet_cons, if_neg hb]
        · rw [memGet_cons, memGet_cons]
          split <;> rfl
      · rw [memGet_cons, memGet_cons, ih h4]
        split
        · next hb => rw [if_neg (by omega)]
        · rfl

theorem wfFrom_memFill (f : Nat → Octet) (n a : Nat) (h : a + n ≤ 142) :
    Memory.wfFrom a (memFill f n a) = true := by
  induction n generalizing a with
  | zero => rfl
  | succ n ih =>
    unfold memFill
    split
    · exact wfFrom_mono (by omega) (ih (a + 1) (by omega))
    · next hv => exact wfFrom_cons.mpr ⟨le_refl a, by omega, hv, ih (a + 1) (by omega)⟩

/-- The undefined contents of `TXF` are canonical, whatever the free value is. -/
theorem wf_forgetTxf (s : State) : Memory.wf (forgetTxf s).txf = true :=
  wfFrom_memFill _ 142 0 (by omega)

theorem wf_reset : Memory.wf State.reset.txf = true := rfl

/-! ### The operations on `TXF` -/

theorem txfWrite1_eq_some {a : Nat} {v : Octet} {s t : State} :
    txfWrite1 a v s = some t ↔ a < 142 ∧ t = setTxf (memSet s.txf a v) s := by
  unfold txfWrite1
  split <;> simp_all [eq_comm]

theorem txfWrite2_eq_some {a : Nat} {v : BitVec 16} {s t : State} :
    txfWrite2 a v s = some t ↔ a + 1 < 142 ∧
      t = setTxf (memSet (memSet s.txf a (hiOctet v)) (a + 1) (loOctet v)) s := by
  unfold txfWrite2 hiOctet loOctet
  constructor
  · intro h
    obtain ⟨u, hu, ht⟩ := Option.bind_eq_some_iff.mp h
    obtain ⟨_, rfl⟩ := txfWrite1_eq_some.mp hu
    exact txfWrite1_eq_some.mp ht
  · rintro ⟨h, rfl⟩
    rw [txfWrite1_eq_some.mpr ⟨by omega, rfl⟩]
    exact txfWrite1_eq_some.mpr ⟨h, rfl⟩

theorem txfWrite1_inside {a : Nat} (v : Octet) (s : State) (h : a < 142) :
    txfWrite1 a v s = some (setTxf (memSet s.txf a v) s) :=
  txfWrite1_eq_some.mpr ⟨h, rfl⟩

theorem txfWrite2_inside {a : Nat} (v : BitVec 16) (s : State) (h : a + 1 < 142) :
    txfWrite2 a v s = some (setTxf (memSet (memSet s.txf a (hiOctet v)) (a + 1) (loOctet v)) s) :=
  txfWrite2_eq_some.mpr ⟨h, rfl⟩

@[simp] theorem setTxf_setTxf (m m' : Memory) (s : State) : setTxf m (setTxf m' s) = setTxf m s := rfl

theorem txfReadRun_eq_some {a n : Nat} {s : State} {l : List Octet} :
    txfReadRun a n s = some l ↔ a + n ≤ 142 ∧ l = (List.range' a n).map (memGet s.txf) := by
  unfold txfReadRun
  split <;> simp_all [eq_comm]

theorem txfReadRun_inside {a n : Nat} (s : State) (h : a + n ≤ 142) :
    txfReadRun a n s = some ((List.range' a n).map (memGet s.txf)) :=
  txfReadRun_eq_some.mpr ⟨h, rfl⟩

theorem wf_txfWrite1 {a : Nat} {v : Octet} {s t : State} (h : txfWrite1 a v s = some t)
    (hs : Memory.wf s.txf = true) : Memory.wf t.txf = true := by
  obtain ⟨ha, rfl⟩ := txfWrite1_eq_some.mp h
  exact wf_memSet v ha hs

theorem wf_txfWrite2 {a : Nat} {v : BitVec 16} {s t : State} (h : txfWrite2 a v s = some t)
    (hs : Memory.wf s.txf = true) : Memory.wf t.txf = true := by
  obtain ⟨ha, rfl⟩ := txfWrite2_eq_some.mp h
  exact wf_memSet _ ha (wf_memSet _ (by omega) hs)

/-! ### The operand buffers -/

theorem bufRead1_inside {S : List Octet} {a : Nat} (h : a < S.length) : bufRead1 S a = some S[a] := by
  simp [bufRead1, h]

theorem bufRead2_inside {S : List Octet} {a : Nat} (h : a + 1 < S.length) :
    bufRead2 S a = some (S[a] ++ S[a + 1]) := by
  simp [bufRead2, bufRead1, h, Nat.lt_of_succ_lt h]

theorem bufReadRun_inside {S : List Octet} {a n : Nat} (h : a + n ≤ S.length) :
    bufReadRun S a n = some (vecOfFn fun j => S[a + j.val]'(by omega)) := by
  simp [bufReadRun, h]

end Machine

end Sys2Proof
end

