-- ==== Sys2Proof/Laws/Checksum.lean ====
section
/-! SUPPORT. The Checksum Unit octet by octet. -/

namespace Sys2Proof.Machine

@[simp] theorem crcFrom_nil (crc : BitVec 16) : crcFrom crc [] = crc := rfl

@[simp] theorem crcFrom_cons (crc : BitVec 16) (b : Octet) (l : List Octet) :
    crcFrom crc (b :: l) = crcFrom (crcByte crc b) l := by
  rw [crcFrom, withValue_eq]

theorem crcFrom_append (crc : BitVec 16) (l m : List Octet) :
    crcFrom crc (l ++ m) = crcFrom (crcFrom crc l) m := by
  induction l generalizing crc with
  | nil => rfl
  | cons b l ih => rw [List.cons_append, crcFrom_cons, crcFrom_cons, ih]

/-- Octets enter the register one after another (40_checksum.md R106). -/
theorem crcFrom_eq_foldl (crc : BitVec 16) (l : List Octet) : crcFrom crc l = l.foldl crcByte crc := by
  induction l generalizing crc with
  | nil => rfl
  | cons b l ih => rw [crcFrom_cons, List.foldl_cons, ih]

theorem checksum16_of_ne_nil {l : List Octet} (h : l ≠ []) : checksum16 l = crcFrom 0xFFFF#16 l :=
  if_neg h

end Sys2Proof.Machine
end

