-- ==== Sys2Proof/Laws/Decode.lean ====
section
/-! SUPPORT. What the parts of the decoder answer. -/

namespace Sys2Proof

/-! ### Operand data -/

@[simp] theorem octetsOf_map (l : List Octet) : octetsOf (l.map .octet) = some l := by
  induction l with
  | nil => rfl
  | cons b l ih => rw [List.map_cons, octetsOf, ih, Option.map_some]

theorem eq_map_of_octetsOf {d : List PortUnit} {l : List Octet} (h : octetsOf d = some l) : d = l.map .octet := by
  induction d generalizing l with
  | nil =>
    cases h
    rfl
  | cons u d ih =>
    cases u with
    | word w => cases h
    | octet b =>
      obtain ⟨l', h', rfl⟩ := Option.map_eq_some_iff.mp h
      rw [ih h', List.map_cons]

/-- Operand data of the announced number of octets are taken. -/
theorem operandOctets_map (l : List Octet) : operandOctets l.length (l.map .octet) = .ok l := by
  simp only [operandOctets, octetsOf_map, if_true]

/-- Operand data are taken only where they are the announced number of octets. -/
theorem of_operandOctets {n : Nat} {d : List PortUnit} {l : List Octet} (h : operandOctets n d = .ok l) :
    d = l.map .octet ∧ l.length = n := by
  unfold operandOctets at h
  split at h
  · cases h
  · next os ho =>
    split at h
    · next len =>
      cases h
      exact ⟨eq_map_of_octetsOf ho, len⟩
    · split at h <;> cases h

theorem of_withoutData {i j : Instr} {d : List PortUnit} (h : withoutData i d = .ok j) : d = [] ∧ j = i := by
  unfold withoutData at h
  split at h
  · next hd =>
    cases h
    exact ⟨hd, rfl⟩
  · cases h

theorem of_withoutOperand {i j : Instr} {arg : BitVec 16} {d : List PortUnit}
    (h : withoutOperand i arg d = .ok j) : arg = 0#16 ∧ d = [] ∧ j = i := by
  unfold withoutOperand at h
  split at h
  · next ha => exact ⟨ha, of_withoutData h⟩
  · cases h

/-- Operand data that are not taken make the transaction no request, never an illegal one. -/
theorem operandOctets_error {n : Nat} {d : List PortUnit} {e : DecodeError} (h : operandOctets n d = .error e) :
    e = .operandDataForm ∨ e = .operandDataMissing ∨ e = .operandDataExcess := by
  unfold operandOctets at h
  split at h
  · cases h
    exact .inl rfl
  · split at h
    · cases h
    · split at h <;> cases h
      · exact .inr (.inl rfl)
      · exact .inr (.inr rfl)

theorem withoutData_error {i : Instr} {d : List PortUnit} {e : DecodeError} (h : withoutData i d = .error e) :
    e = .operandDataExcess := by
  unfold withoutData at h
  split at h <;> cases h
  rfl

/-! ### Frames -/

/-- A frame that the encoder writes is told by its head alone. -/
theorem decodeFrame_frameOctets (o3 o5 o6 o7 : Octet) (p csum : BitVec 16) :
    decodeFrame (frameOctets o3 o5 o6 o7 p csum) =
      (let head := frameCover o3 o5 o6 o7 p ++ [hiOctet csum, loOctet csum]
       let seqh := o5.extractLsb' 0 7
       if rowTogglePower.fits head then .ok (.cmdTogglePower o3 seqh (o6.getLsbD 0) csum)
       else if rowToggleMute.fits head then .ok (.cmdToggleMute o3 seqh (o6.getLsbD 0) csum)
       else if rowSetVolume.fits head then .ok (.cmdSetVolume o3 seqh p csum)
       else if rowSetOutput.fits head then
         .ok (.cmdSetOutput o3 seqh ((hiOctet p).extractLsb' 0 1 ++ (loOctet p).extractLsb' 4 4) csum)
       else .error .notCommandFrame) := by
  have tail : (frameOctets o3 o5 o6 o7 p csum).drop 14 = List.replicate 128 0x00#8 := rfl
  unfold decodeFrame
  rw [if_neg (not_not.mpr tail)]
  simp only [frameOctets, frameCover, List.cons_append, List.nil_append, List.take_succ_cons, List.take_zero,
    hiOctet_append_loOctet]
  rfl

/-- A frame whose octets the decoder takes is 14 octets and 128 zeros. -/
theorem length_of_decodeFrame {os : List Octet} {i : Instr} (h : decodeFrame os = .ok i) : os.length = 142 := by
  unfold decodeFrame at h
  split at h
  · cases h
  · next hd =>
    have tail : (os.drop 14).length = 128 := by rw [not_not.mp hd, List.length_replicate]
    rw [List.length_drop] at tail
    omega

end Sys2Proof
end

