-- ==== Sys2Proof/Laws/Decoder.lean ====
section
/-! SUPPORT. What the Status Decoder reads of an admitted frame, and the three ways DECODE_STATUS ends. -/

namespace Sys2Proof.Machine

/-- What stands in the fields read of a frame. -/
structure ReadsFrame (rxf : List Octet) (f : StatusFields) : Prop where
  name : ∀ (j : Nat) (h : j < 31), f.name[j] = octetAt rxf (19 + j)
  records : ∀ (k : Nat) (h : k < 255), f.records[k] = octetAt rxf (52 + k)
  b307 : f.b307 = octetAt rxf 307
  b308 : f.b308 = octetAt rxf 308
  b310 : f.b310 = octetAt rxf 310
  transmitted : f.transmitted = transmittedIn rxf
  cover : f.cover = rxf.take (rxf.length - 2)

theorem octetAt_inside {rxf : List Octet} {a : Nat} (h : a < rxf.length) : octetAt rxf a = rxf[a] := by
  simp [octetAt, h]

/-- The reads of a frame of at least 512 octets never leave it (20_memory.md R45). -/
theorem readStatus_spec {rxf : List Octet} (h : 512 ≤ rxf.length) :
    ∃ f, readStatus rxf = some f ∧ ReadsFrame rxf f := by
  have len : rxf.length - 2 + 1 = rxf.length - 1 := by omega
  unfold readStatus nameOffset channelOffset powerOffset muteOffset volumeOffset
  rw [bufReadRun_inside (by omega), Option.bind_some, bufReadRun_inside (by omega), Option.bind_some,
    bufRead1_inside (show 307 < rxf.length by omega), Option.bind_some,
    bufRead1_inside (show 308 < rxf.length by omega), Option.bind_some,
    bufRead1_inside (show 310 < rxf.length by omega), Option.bind_some,
    bufRead2_inside (show rxf.length - 2 + 1 < rxf.length by omega), Option.bind_some]
  refine ⟨_, rfl, ⟨fun j hj => ?_, fun k hk => ?_, ?_, ?_, ?_, ?_, rfl⟩⟩
  · rw [octetAt_inside (by omega)]; simp
  · rw [octetAt_inside (by omega)]; simp
  · rw [octetAt_inside (by omega)]
  · rw [octetAt_inside (by omega)]
  · rw [octetAt_inside (by omega)]
  · simp only [transmittedIn, len, octetAt_inside (show rxf.length - 2 < rxf.length by omega),
      octetAt_inside (show rxf.length - 1 < rxf.length by omega)]

/-- A vector whose entries are the octets from offset `a` on has the field as its list. -/
theorem toList_eq_fieldAt {rxf : List Octet} {a n : Nat} (v : Vector Octet n) (h : a + n ≤ rxf.length)
    (hv : ∀ (j : Nat) (hj : j < n), v[j] = octetAt rxf (a + j)) : v.toList = fieldAt rxf a n := by
  apply List.ext_getElem
  · simp; omega
  · intro j h1 h2
    have hj : j < n := by simpa using h1
    rw [Vector.getElem_toList, hv j hj, octetAt_inside (by omega)]
    simp

variable {rxf : List Octet} {f : StatusFields}

theorem ReadsFrame.enabled (r : ReadsFrame rxf f) (i : Fin 15) :
    channelEnabled f i = true ↔ flaggedIn rxf i.val := by
  unfold channelEnabled flagEnabled
  rw [r.records _ (by omega)]
  simp [flaggedIn]

theorem ReadsFrame.channelName (r : ReadsFrame rxf f) (i : Fin 15) (j : Nat) (h : j < 16) :
    (channelName f i)[j] = octetAt rxf (53 + 17 * i.val + j) := by
  unfold Machine.channelName
  rw [vecOfFn_getElem, r.records _ (by omega)]
  congr 1
  simp only
  omega

theorem ReadsFrame.nameList (r : ReadsFrame rxf f) (h : 512 ≤ rxf.length) :
    f.name.toList = fieldAt rxf 19 31 :=
  toList_eq_fieldAt f.name (by omega) r.name

theorem ReadsFrame.channelNameList (r : ReadsFrame rxf f) (h : 512 ≤ rxf.length) (i : Fin 15) :
    (Machine.channelName f i).toList = fieldAt rxf (53 + 17 * i.val) 16 :=
  toList_eq_fieldAt _ (by omega) fun j hj => r.channelName i j hj

/-- No text field is malformed exactly where the checks of R123 pass. -/
theorem firstMalformed_none : firstMalformed f = none ↔
    utf8Wf f.name.toList = true ∧
      ∀ i : Fin 15, channelEnabled f i = true → utf8Wf (channelName f i).toList = true := by
  unfold firstMalformed
  split <;> simp_all

/-- DECODE_STATUS on a length that is not admitted (R121). -/
theorem execDecodeStatus_length {sender : BitVec 32} {s : State} (h : ¬ LengthAdmitted s rxf) :
    execDecodeStatus sender rxf s = .next (raise (.frameLength (BitVec.ofNat 16 rxf.length)) s) := by
  unfold execDecodeStatus
  rw [if_pos (by simp only [LengthAdmitted] at h; simp only [Config.statusMinOctets]; omega)]

/-- DECODE_STATUS on an admitted length: an abort with the first malformed field, or the commit (R123 to R132). -/
theorem execDecodeStatus_admitted (sender : BitVec 32) {s : State} (h : LengthAdmitted s rxf) :
    ∃ f, ReadsFrame rxf f ∧ execDecodeStatus sender rxf s =
      match firstMalformed f with
      | some field => .next (raise (.malformedPayload field) s)
      | none => .next (respond (commitCode f) 0#16 (commitStatus sender f s)) := by
  obtain ⟨f, read, r⟩ := readStatus_spec h.1
  refine ⟨f, r, ?_⟩
  have admitted : ¬(rxf.length < Config.statusMinOctets ∨ s.config.statusBufOctets < rxf.length) := by
    simp only [Config.statusMinOctets]; omega
  cases hf : firstMalformed f <;> simp only [execDecodeStatus, if_neg admitted, read, hf]

end Sys2Proof.Machine
end

