-- ==== Sys2Proof/Laws/Encoder.lean ====
section
/-! SUPPORT. What the shared operations of the Command Encoder answer. -/

namespace Sys2Proof.Machine

/-- `TXF` holds the command `a`, `b`, `p`; its sequence and checksum octets may hold anything. -/
structure HoldsCommand (a b : Octet) (p : BitVec 16) (m : Memory) : Prop where
  wf : Memory.wf m = true
  at0 : memGet m 0 = 0x44#8
  at1 : memGet m 1 = 0x72#8
  at6 : memGet m 6 = a
  at7 : memGet m 7 = b
  at8 : memGet m 8 = hiOctet p
  at9 : memGet m 9 = loOctet p
  rest : ∀ x, x ∉ [0, 1, 3, 5, 6, 7, 8, 9, 12, 13] → memGet m x = 0x00#8

theorem memGet_memSet_wf {m : Memory} (hm : Memory.wf m = true) (a : Nat) (v : Octet) (b : Nat) :
    memGet (memSet m a v) b = if b = a then v else memGet m b :=
  memGet_memSet hm a v b

/-- The build never fails and leaves the command in `TXF`. -/
theorem buildFrame_spec (a b : Octet) (p : BitVec 16) (s : State) :
    ∃ m, HoldsCommand a b p m ∧ buildFrame a b p s = some (setTxf m s) := by
  have w0 : Memory.wf (memSet [] 0 0x44#8) = true := rfl
  have w1 := wf_memSet (a := 1) 0x72#8 (by omega) w0
  have w6 := wf_memSet (a := 6) a (by omega) w1
  have w7 := wf_memSet (a := 7) b (by omega) w6
  have w8 := wf_memSet (a := 8) (hiOctet p) (by omega) w7
  have w9 := wf_memSet (a := 9) (loOctet p) (by omega) w8
  refine ⟨memSet (memSet (memSet (memSet (memSet (memSet [] 0 0x44#8) 1 0x72#8) 6 a) 7 b) 8 (hiOctet p)) 9
    (loOctet p), ⟨w9, ?_, ?_, ?_, ?_, ?_, ?_, ?_⟩, ?_⟩
  case refine_8 =>
    simp only [buildFrame, txfClear, txfWrite1_inside, txfWrite2_inside, Option.bind_some, setTxf_setTxf,
      setTxf_txf, Nat.reduceLT, Nat.reduceAdd]
  case refine_7 =>
    intro x hx
    simp only [List.mem_cons, List.not_mem_nil, or_false, not_or] at hx
    obtain ⟨h0, h1, h3, h5, h6, h7, h8, h9, -, -⟩ := hx
    rw [memGet_memSet_wf w8, memGet_memSet_wf w7, memGet_memSet_wf w6, memGet_memSet_wf w1,
      memGet_memSet_wf w0, memGet_memSet_wf (m := []) rfl]
    simp [h0, h1, h6, h7, h8, h9]
  all_goals
    rw [memGet_memSet_wf w8, memGet_memSet_wf w7, memGet_memSet_wf w6, memGet_memSet_wf w1,
      memGet_memSet_wf w0, memGet_memSet_wf (m := []) rfl]
    simp

/-- Writing a sequence or checksum octet leaves the command. -/
theorem HoldsCommand.memSet {a b : Octet} {p : BitVec 16} {m : Memory} (h : HoldsCommand a b p m)
    (x : Nat) (v : Octet) (hx : x ∈ [3, 5, 12, 13]) : HoldsCommand a b p (memSet m x v) := by
  simp only [List.mem_cons, List.not_mem_nil, or_false] at hx
  have get := memGet_memSet_wf h.wf x v
  refine ⟨wf_memSet v (by omega) h.wf, ?_, ?_, ?_, ?_, ?_, ?_, ?_⟩
  · rw [get, if_neg (by omega), h.at0]
  · rw [get, if_neg (by omega), h.at1]
  · rw [get, if_neg (by omega), h.at6]
  · rw [get, if_neg (by omega), h.at7]
  · rw [get, if_neg (by omega), h.at8]
  · rw [get, if_neg (by omega), h.at9]
  · intro y hy
    have hne : y ≠ x := by
      rintro rfl
      simp only [List.mem_cons, List.not_mem_nil, or_false, not_or] at hy
      omega
    rw [get, if_neg hne, h.rest y hy]

/-- The cover of a stamped frame. -/
theorem HoldsCommand.cover {a b : Octet} {p : BitVec 16} {m : Memory} (h : HoldsCommand a b p m) :
    (List.range' 0 12).map (memGet m) = frameCover (memGet m 3) (memGet m 5) a b p := by
  simp [List.range', frameCover, h.at0, h.at1, h.at6, h.at7, h.at8, h.at9, h.rest]

/-- The 142 octets of a stamped frame. -/
theorem HoldsCommand.octets {a b : Octet} {p : BitVec 16} {m : Memory} (h : HoldsCommand a b p m)
    (c : BitVec 16) (hc : memGet m 12 = hiOctet c) (hd : memGet m 13 = loOctet c) :
    (List.range' 0 142).map (memGet m) = frameOctets (memGet m 3) (memGet m 5) a b p c := by
  have tail : (List.range' 14 128).map (memGet m) = List.replicate 128 0x00#8 := by
    rw [List.eq_replicate_iff]
    refine ⟨by simp, fun y hy => ?_⟩
    obtain ⟨x, hx, rfl⟩ := List.mem_map.mp hy
    have := List.mem_range'_1.mp hx
    exact h.rest x (by simp only [List.mem_cons, List.not_mem_nil, or_false, not_or]; omega)
  have split : List.range' 0 142 = List.range' 0 12 ++ ([12, 13] ++ List.range' 14 128) := by decide
  rw [split, List.map_append, List.map_append, tail, h.cover]
  simp [frameOctets, hc, hd]

/-- One transmission never fails: it emits the wire frame of the stamp value and advances the counter. -/
theorem transmitOne_spec {a b : Octet} {p : BitVec 16} (dst : BitVec 32) {s : State}
    (h : HoldsCommand a b p s.txf) :
    ∃ m, HoldsCommand a b p m ∧
      transmitOne dst s = some (setSeq (s.seq + 1#8)
        (emit ⟨dst, 45455#16, wireFrame a b p (stampValue s)⟩ (setTxf m s))) := by
  have h3 := h.memSet 3 (stampValue s) (by simp)
  have h5 := h3.memSet 5 (stampValue s >>> 1) (by simp)
  have get3 : memGet (memSet (memSet s.txf 3 (stampValue s)) 5 (stampValue s >>> 1)) 3 = stampValue s := by
    rw [memGet_memSet_wf h3.wf, if_neg (by omega), memGet_memSet_wf h.wf, if_pos rfl]
  have get5 : memGet (memSet (memSet s.txf 3 (stampValue s)) 5 (stampValue s >>> 1)) 5
      = stampValue s >>> 1 := by
    rw [memGet_memSet_wf h3.wf, if_pos rfl]
  have cov := h5.cover
  rw [get3, get5] at cov
  generalize hm5 : memSet (memSet s.txf 3 (stampValue s)) 5 (stampValue s >>> 1) = m5 at *
  generalize hc : checksum16 (frameCover (stampValue s) (stampValue s >>> 1) a b p) = c at *
  have h12 := h5.memSet 12 (hiOctet c) (by simp)
  have h13 := h12.memSet 13 (loOctet c) (by simp)
  have octs := h13.octets c
    (by rw [memGet_memSet_wf h12.wf, if_neg (by omega), memGet_memSet_wf h5.wf, if_pos rfl])
    (by rw [memGet_memSet_wf h12.wf, if_pos rfl])
  have g3 : memGet (memSet (memSet m5 12 (hiOctet c)) 13 (loOctet c)) 3 = stampValue s := by
    rw [memGet_memSet_wf h12.wf, if_neg (by omega), memGet_memSet_wf h5.wf, if_neg (by omega), get3]
  have g5 : memGet (memSet (memSet m5 12 (hiOctet c)) 13 (loOctet c)) 5 = stampValue s >>> 1 := by
    rw [memGet_memSet_wf h12.wf, if_neg (by omega), memGet_memSet_wf h5.wf, if_neg (by omega), get5]
  rw [g3, g5] at octs
  refine ⟨_, h13, ?_⟩
  have stamp : stampFrame (stampValue s) s
      = some (setTxf (memSet (memSet m5 12 (hiOctet c)) 13 (loOctet c)) s) := by
    simp only [stampFrame, txfWrite1_inside, txfWrite2_inside, txfReadRun_inside, Option.bind_some,
      setTxf_setTxf, setTxf_txf, Nat.reduceLT, Nat.reduceAdd, Nat.reduceLeDiff, Config.cmdCrcCover, hm5, cov, hc]
  simp only [transmitOne, stamp, Option.bind_some, txfReadRun_inside, Config.cmdOctets, Nat.reduceAdd,
    le_refl, setTxf_txf, octs, wireFrame, hc, setTxf_seq]

/-- The transmissions never fail: `n` wire frames in order, the counter `n` further. -/
theorem transmit_spec {a b : Octet} {p : BitVec 16} (dst : BitVec 32) (n : Nat) {s : State}
    (h : HoldsCommand a b p s.txf) :
    ∃ m, transmit dst n s = some { s with
      seq := s.seq + BitVec.ofNat 8 n
      txf := m
      outputs := s.outputs ++ emissions dst a b p n (stampValue s) } := by
  induction n generalizing s with
  | zero => exact ⟨s.txf, by simp [transmit, emissions]⟩
  | succ n ih =>
    obtain ⟨m, hm, one⟩ := transmitOne_spec dst h
    have hm' : HoldsCommand a b p (setSeq (s.seq + 1#8)
        (emit ⟨dst, 45455#16, wireFrame a b p (stampValue s)⟩ (setTxf m s))).txf := hm
    obtain ⟨m', rest⟩ := ih hm'
    refine ⟨m', ?_⟩
    have stamp : stampValue (setSeq (s.seq + 1#8)
        (emit ⟨dst, 45455#16, wireFrame a b p (stampValue s)⟩ (setTxf m s))) = stampValue s + 1#8 := by
      unfold stampValue
      simp only [setSeq_config, emit_config, setTxf_config, setSeq_seq]
      by_cases pre : s.config.seqPreIncrement = true <;> simp [pre]
    have count : s.seq + 1#8 + BitVec.ofNat 8 n = s.seq + BitVec.ofNat 8 (n + 1) := by
      rw [Nat.add_comm n 1, BitVec.ofNat_add, BitVec.add_assoc]
    rw [transmit, one, Option.bind_some, rest, stamp]
    simp only [setSeq_seq, setSeq_outputs, emit_outputs, setTxf_outputs, emissions, List.append_assoc,
      List.cons_append, List.nil_append, count]
    rfl

/-- A dropped command: one response and nothing else (R151). -/
theorem sendCommand_dropped {a b : Octet} {p : BitVec 16} {s : State} (h : s.connected = false) :
    sendCommand a b p s = .next (respond .ok 0#16 s) := by
  simp [sendCommand, h]

/-- A command that passes the guard: four wire frames, then the response; `SEQ` is four further and `TXF` has no defined
content (R152, R153, R161; 20_memory.md R46). -/
theorem sendCommand_connected {a b : Octet} {p : BitVec 16} {s : State} (h : s.connected = true) :
    sendCommand a b p s = .next { s with
      seq := s.seq + 4#8
      txf := memFill (Config.freeTxf s.freeCount) 142 0
      freeCount := s.freeCount + 1
      outputs := s.outputs ++ emissions s.srcAddr a b p 4 (stampValue s)
        ++ [.response (rspWord .ok 0#16)] } := by
  obtain ⟨m, hm, built⟩ := buildFrame_spec a b p s
  obtain ⟨m', sent⟩ := transmit_spec s.srcAddr 4 (s := setTxf m s) hm
  unfold sendCommand
  rw [if_pos h, built, Option.bind_some]
  simp only [Config.cmdRepeat, sent]
  rfl

end Sys2Proof.Machine
end

