-- ==== Sys2Proof/Laws/History.lean ====
section
/-! SUPPORT. The datagrams and responses among the events, and what one SEND operation adds to them. -/

namespace Sys2Proof.Machine

theorem datagrams_map_emit (ds : List Datagram) : (ds.map Event.emit).filterMap datagramOf = ds := by
  induction ds with
  | nil => rfl
  | cons d ds ih => exact congrArg (d :: ·) ih

theorem responses_map_emit (ds : List Datagram) : (ds.map Event.emit).filterMap responseOf = [] := by
  induction ds with
  | nil => rfl
  | cons d ds ih => exact ih

/-- The transmit history after an operation that emits `ds` and responds. -/
theorem sent_of_outputs {s t : State} {ds : List Datagram} {w : BitVec 32}
    (h : t.outputs = s.outputs ++ ds.map .emit ++ [.response w]) : t.sent = s.sent ++ ds := by
  simp only [State.sent, h, List.filterMap_append, datagrams_map_emit, List.filterMap_cons, datagramOf,
    List.filterMap_nil, List.append_nil]

/-- The responses after an operation that emits `ds` and responds. -/
theorem responses_of_outputs {s t : State} {ds : List Datagram} {w : BitVec 32}
    (h : t.outputs = s.outputs ++ ds.map .emit ++ [.response w]) : t.responses = s.responses ++ [w] := by
  simp only [State.responses, h, List.filterMap_append, responses_map_emit, List.filterMap_cons, responseOf,
    List.filterMap_nil, List.append_nil]

/-- The datagrams of `emissions`. -/
def emitted (dst : BitVec 32) (a b : Octet) (p : BitVec 16) : Nat → BitVec 8 → List Datagram
  | 0, _ => []
  | n + 1, v => ⟨dst, 45455#16, wireFrame a b p v⟩ :: emitted dst a b p n (v + 1#8)

variable (dst : BitVec 32) (a b : Octet) (p : BitVec 16)

theorem emissions_eq_map (n : Nat) (v : BitVec 8) : emissions dst a b p n v = (emitted dst a b p n v).map .emit := by
  induction n generalizing v with
  | zero => rfl
  | succ n ih => rw [emissions, emitted, List.map_cons, ih]

@[simp] theorem length_emitted (n : Nat) (v : BitVec 8) : (emitted dst a b p n v).length = n := by
  induction n generalizing v with
  | zero => rfl
  | succ n ih => rw [emitted, List.length_cons, ih]

/-- Datagram `k` of the emissions carries the `k`-th sequence value from the first. -/
theorem eq_of_mem_emitted {n k : Nat} {v : BitVec 8} {d : Datagram} (h : (emitted dst a b p n v)[k]? = some d) :
    d = ⟨dst, 45455#16, wireFrame a b p (v + BitVec.ofNat 8 k)⟩ := by
  induction n generalizing v k with
  | zero => simp only [emitted, List.getElem?_nil, reduceCtorEq] at h
  | succ n ih =>
    cases k with
    | zero =>
      simp only [emitted, List.getElem?_cons_zero, Option.some.injEq] at h
      rw [← h, BitVec.add_zero]
    | succ k =>
      rw [ih (v := v + 1#8) (by simpa only [emitted, List.getElem?_cons_succ] using h), BitVec.add_assoc,
        ← BitVec.ofNat_add, Nat.add_comm 1 k]

end Sys2Proof.Machine
end

