-- ==== Sys2Proof/Laws/PerInstr.lean ====
section
/-! SUPPORT. Every encoding is of the form its row of the opcode table gives. -/

namespace Sys2Proof.Laws

/-- A request whose word has `pattern` under `mask`, followed by `n` units of operand data. -/
def IsRequest (mask pattern : BitVec 32) (n : Nat) (e : Encoded) : Prop :=
  ∃ w data, e = .request (.word w :: data) ∧ w &&& mask = pattern ∧ data.length = n

/-- A frame of 142 octets whose head a row of the table fits. -/
def IsFrame (r : FrameRow) (e : Encoded) : Prop :=
  ∃ os, e = .frame os ∧ os.length = 142 ∧ r.fits (os.take 14) = true

/-- The encoding of an instruction has its row's fixed bits, and the operand data its row names (30_encoding.md R63,
R70). -/
def EncodedFormat.Statement : Instr → Prop
  | .crc16 crcin => IsRequest 0xFFFF0000#32 0x00000000#32 crcin.length (encode (.crc16 crcin))
  | .sendTogglePower => IsRequest 0xFFFFFFFF#32 0x10000000#32 0 (encode .sendTogglePower)
  | .decodeStatus sender rxf =>
    IsRequest 0xFFFF0000#32 0x20000000#32 (1 + rxf.length) (encode (.decodeStatus sender rxf))
  | .rxTimeout => IsRequest 0xFFFFFFFF#32 0x30000000#32 0 (encode .rxTimeout)
  | .sendSetVolume h => IsRequest 0xFFFF0000#32 0x40000000#32 0 (encode (.sendSetVolume h))
  | .sendSetOutput i => IsRequest 0xFFFFFFF0#32 0x50000000#32 0 (encode (.sendSetOutput i))
  | .db2reg h => IsRequest 0xFFFF0000#32 0x60000000#32 0 (encode (.db2reg h))
  | .sendToggleMute => IsRequest 0xFFFFFFFF#32 0x70000000#32 0 (encode .sendToggleMute)
  | .reg2db v => IsRequest 0xFFFFFF00#32 0x80000000#32 0 (encode (.reg2db v))
  | .cmdTogglePower seq seqh a csum => IsFrame rowTogglePower (encode (.cmdTogglePower seq seqh a csum))
  | .cmdToggleMute seq seqh a csum => IsFrame rowToggleMute (encode (.cmdToggleMute seq seqh a csum))
  | .cmdSetVolume seq seqh payload csum => IsFrame rowSetVolume (encode (.cmdSetVolume seq seqh payload csum))
  | .cmdSetOutput seq seqh sel csum => IsFrame rowSetOutput (encode (.cmdSetOutput seq seqh sel csum))

/-- A request word without its operand. -/
theorem reqWord_and (op : BitVec 4) (arg : BitVec 16) : reqWord op arg &&& 0xFFFF0000#32 = reqWord op 0#16 := by
  have mask : ∀ i < 32, (0xFFFF0000#32).getLsbD i = !decide (i < 16) := by decide
  apply BitVec.eq_of_getLsbD_eq
  intro i hi
  unfold reqWord
  rw [BitVec.getLsbD_and, mask i hi]
  simp only [BitVec.getLsbD_append]
  by_cases low : i < 16
  · simp only [low, decide_true, Bool.not_true, Bool.and_false, if_true, BitVec.getLsbD_zero]
  · simp only [low, decide_false, Bool.not_false, Bool.and_true, if_false]

theorem seqhOctet_and (seqh : BitVec 7) : seqhOctet seqh &&& 0x80#8 = 0x00#8 := by
  revert seqh
  decide

theorem stateOctet_and (a : Bool) : stateOctet a &&& 0xFE#8 = 0x00#8 := by
  cases a <;> rfl

theorem selPayload_and (sel : BitVec 5) : hiOctet (selPayload sel) &&& 0xFE#8 = 0x40#8 ∧
    loOctet (selPayload sel) &&& 0x0F#8 = 0x00#8 := by
  revert sel
  decide

theorem EncodedFormat.crc16 (crcin : List Octet) : EncodedFormat.Statement (.crc16 crcin) :=
  ⟨_, _, rfl, reqWord_and _ _, List.length_map _⟩

theorem EncodedFormat.sendTogglePower : EncodedFormat.Statement .sendTogglePower :=
  ⟨_, _, rfl, rfl, rfl⟩

theorem EncodedFormat.decodeStatus (sender : BitVec 32) (rxf : List Octet) :
    EncodedFormat.Statement (.decodeStatus sender rxf) :=
  ⟨_, _, rfl, reqWord_and _ _, by rw [List.length_cons, List.length_map, Nat.add_comm]⟩

theorem EncodedFormat.rxTimeout : EncodedFormat.Statement .rxTimeout :=
  ⟨_, _, rfl, rfl, rfl⟩

theorem EncodedFormat.sendSetVolume (h : BitVec 16) : EncodedFormat.Statement (.sendSetVolume h) :=
  ⟨_, _, rfl, reqWord_and _ _, rfl⟩

theorem EncodedFormat.sendSetOutput (i : BitVec 4) : EncodedFormat.Statement (.sendSetOutput i) :=
  ⟨_, _, rfl, by revert i; decide, rfl⟩

theorem EncodedFormat.db2reg (h : BitVec 16) : EncodedFormat.Statement (.db2reg h) :=
  ⟨_, _, rfl, reqWord_and _ _, rfl⟩

theorem EncodedFormat.sendToggleMute : EncodedFormat.Statement .sendToggleMute :=
  ⟨_, _, rfl, rfl, rfl⟩

theorem EncodedFormat.reg2db (v : BitVec 8) : EncodedFormat.Statement (.reg2db v) :=
  ⟨_, _, rfl, by revert v; decide, rfl⟩

theorem EncodedFormat.cmdTogglePower (seq : Octet) (seqh : BitVec 7) (a : Bool) (csum : BitVec 16) :
    EncodedFormat.Statement (.cmdTogglePower seq seqh a csum) :=
  ⟨_, rfl, rfl, by simp [frameOctets, frameCover, FrameRow.fits, rowTogglePower, octetsMatch, seqhOctet_and,
    stateOctet_and, hiOctet, loOctet]⟩

theorem EncodedFormat.cmdToggleMute (seq : Octet) (seqh : BitVec 7) (a : Bool) (csum : BitVec 16) :
    EncodedFormat.Statement (.cmdToggleMute seq seqh a csum) :=
  ⟨_, rfl, rfl, by simp [frameOctets, frameCover, FrameRow.fits, rowToggleMute, octetsMatch, seqhOctet_and,
    stateOctet_and, hiOctet, loOctet]⟩

theorem EncodedFormat.cmdSetVolume (seq : Octet) (seqh : BitVec 7) (payload csum : BitVec 16) :
    EncodedFormat.Statement (.cmdSetVolume seq seqh payload csum) :=
  ⟨_, rfl, rfl, by simp [frameOctets, frameCover, FrameRow.fits, rowSetVolume, octetsMatch, seqhOctet_and]⟩

theorem EncodedFormat.cmdSetOutput (seq : Octet) (seqh : BitVec 7) (sel : BitVec 5) (csum : BitVec 16) :
    EncodedFormat.Statement (.cmdSetOutput seq seqh sel csum) :=
  ⟨_, rfl, rfl, by simp [frameOctets, frameCover, FrameRow.fits, rowSetOutput, octetsMatch, seqhOctet_and,
    selPayload_and]⟩

end Sys2Proof.Laws
end

