-- ==== Sys2Proof/Laws/Step.lean ====
section
/-! SUPPORT. Everything an instruction and a step can do, said once. -/

namespace Sys2Proof.Machine

/-- The state after a SEND operation that passed the guard, with the command `a`, `b`, `p`. -/
def afterSend (a b : Octet) (p : BitVec 16) (s : State) : State :=
  { s with
    seq := s.seq + 4#8
    txf := memFill (Config.freeTxf s.freeCount) 142 0
    freeCount := s.freeCount + 1
    outputs := s.outputs ++ (emitted s.srcAddr a b p 4 (stampValue s)).map .emit ++ [.response (rspWord .ok 0#16)] }

/-- Each SEND operation is `sendCommand` of a command the encoder builds. -/
theorem exec_send {i : Instr} (h : isSend i = true) (s : State) :
    ∃ a b p, EncoderCommand a b p ∧ exec i s = sendCommand a b p s := by
  cases i
  case sendTogglePower => exact ⟨_, _, _, .togglePower s.powered, rfl⟩
  case sendToggleMute => exact ⟨_, _, _, .toggleMute s.muted, rfl⟩
  case sendSetVolume level => exact ⟨_, _, _, .setVolume level, rfl⟩
  case sendSetOutput index => exact ⟨_, _, _, .setOutput index, rfl⟩
  all_goals cases h

/-- A SEND operation drops its command, or sends it (42_command_encoder.md R151 to R161). -/
theorem exec_send_cases {i : Instr} (h : isSend i = true) (s : State) :
    (s.connected = false ∧ exec i s = .next (respond .ok 0#16 s)) ∨
    (s.connected = true ∧ ∃ a b p, EncoderCommand a b p ∧ exec i s = .next (afterSend a b p s)) := by
  obtain ⟨a, b, p, command, run⟩ := exec_send h s
  by_cases hc : s.connected = true
  · exact .inr ⟨hc, a, b, p, command, by rw [run, sendCommand_connected hc, emissions_eq_map]; rfl⟩
  · rw [Bool.not_eq_true] at hc
    exact .inl ⟨hc, by rw [run, sendCommand_dropped hc]⟩

/-- DECODE_STATUS aborts or commits (41_status_decoder.md R120). -/
theorem exec_decodeStatus_cases (sender : BitVec 32) (rxf : List Octet) (s : State) :
    (∃ r, exec (.decodeStatus sender rxf) s = .next (raise r s)) ∨
    ∃ f, ReadsFrame rxf f ∧ LengthAdmitted s rxf ∧ firstMalformed f = none ∧
      exec (.decodeStatus sender rxf) s = .next (respond (commitCode f) 0#16 (commitStatus sender f s)) := by
  by_cases h : LengthAdmitted s rxf
  · obtain ⟨f, reads, run⟩ := execDecodeStatus_admitted sender h
    cases hf : firstMalformed f with
    | some field => exact .inl ⟨.malformedPayload field, by rw [exec, run, hf]⟩
    | none => exact .inr ⟨f, reads, h, hf, by rw [exec, run, hf]⟩
  · exact .inl ⟨_, execDecodeStatus_length h⟩

/-- What an instruction can do: add one event that is no datagram, clear `CONNECTED` and answer, commit a status frame and
answer, or send a command. -/
theorem exec_cases {i : Instr} {s t : State} (h : exec i s = .next t) :
    (∃ e, (∀ d, e ≠ .emit d) ∧ t = observe e s) ∨
    (i = .rxTimeout ∧ t = respond .ok 0#16 (setConnected false s)) ∨
    (∃ sender rxf f, i = .decodeStatus sender rxf ∧ ReadsFrame rxf f ∧ LengthAdmitted s rxf ∧
      firstMalformed f = none ∧ t = respond (commitCode f) 0#16 (commitStatus sender f s)) ∨
    (isSend i = true ∧ s.connected = true ∧ ∃ a b p, EncoderCommand a b p ∧ t = afterSend a b p s) := by
  have event : ∀ e : Event, (∀ d, e ≠ .emit d) → exec i s = .next (observe e s) →
      ∃ e, (∀ d, e ≠ .emit d) ∧ t = observe e s := by
    intro e no run
    rw [run] at h
    exact ⟨e, no, (Host.Outcome.next.inj h).symm⟩
  have send := fun hs : isSend i = true => exec_send_cases hs s
  cases i
  case sendTogglePower | sendToggleMute | sendSetVolume | sendSetOutput =>
    obtain ⟨-, run⟩ | ⟨hc, a, b, p, command, run⟩ := send rfl
    · exact .inl (event _ (by nofun) run)
    · rw [run] at h
      exact .inr (.inr (.inr ⟨rfl, hc, a, b, p, command, (Host.Outcome.next.inj h).symm⟩))
  case rxTimeout => exact .inr (.inl ⟨rfl, (Host.Outcome.next.inj h).symm⟩)
  case decodeStatus sender rxf =>
    obtain ⟨r, run⟩ | ⟨f, reads, len, texts, run⟩ := exec_decodeStatus_cases sender rxf s
    · exact .inl (event _ (by nofun) run)
    · rw [run] at h
      exact .inr (.inr (.inl ⟨sender, rxf, f, rfl, reads, len, texts, (Host.Outcome.next.inj h).symm⟩))
  all_goals exact .inl (event _ (by nofun) rfl)

/-- What a step can do where it answers a next state. -/
theorem step_cases {s t : State} (h : step s = .next t) :
    (s.pending = [] ∧ t = s) ∨
    (∃ rest, s.pending = .reset :: rest ∧ t = applyReset (setPending rest s)) ∨
    (∃ e rest i, s.pending = .present e :: rest ∧ decode e = .ok i ∧ exec i (setPending rest s) = .next t) ∨
    (∃ e rest why, s.pending = .present e :: rest ∧ decode e = .error why ∧ why.illegal = true ∧
      t = raise .illegalOp (setPending rest s)) ∨
    (∃ e rest, s.pending = .present e :: rest ∧ decode e = .error .notCommandFrame ∧
      t = observe (.report .notProducible) (setPending rest s)) := by
  unfold step at h
  split at h
  · next none => exact .inl ⟨none, (Host.Outcome.next.inj h).symm⟩
  · next rest hp => exact .inr (.inl ⟨rest, hp, (Host.Outcome.next.inj h).symm⟩)
  · next e rest hp =>
    split at h
    · next i hd => exact .inr (.inr (.inl ⟨e, rest, i, hp, hd, h⟩))
    · next why hd =>
      unfold takeUndecodable at h
      split at h
      · next hi => exact .inr (.inr (.inr (.inl ⟨e, rest, why, hp, hd, hi, (Host.Outcome.next.inj h).symm⟩)))
      · split at h
        · next hw => exact .inr (.inr (.inr (.inr ⟨e, rest, hp, hw ▸ hd, (Host.Outcome.next.inj h).symm⟩)))
        · cases h

end Sys2Proof.Machine
end

