-- ==== Sys2Proof/Laws/Utf8.lean ====
section
/-! SUPPORT. One equation of `utf8Wf` for each length of a sequence, chosen by the first octet. -/

namespace Sys2Proof.Machine

theorem utf8Wf_ascii {b0 : Octet} {t : List Octet} (h : b0 ≤ 0x7F#8) : utf8Wf (b0 :: t) = utf8Wf t := by
  conv_lhs => unfold utf8Wf
  rw [if_pos h]

theorem utf8Wf_two {b0 b1 : Octet} {t : List Octet} (h : ¬ b0 ≤ 0x7F#8) (h2 : b0 ≤ 0xDF#8) :
    utf8Wf (b0 :: b1 :: t) = (utf8Two b0 b1 && utf8Wf t) := by
  conv_lhs => unfold utf8Wf
  rw [if_neg h]
  simp only [h2, if_true]

theorem utf8Wf_three {b0 b1 b2 : Octet} {t : List Octet} (h : ¬ b0 ≤ 0x7F#8) (h2 : ¬ b0 ≤ 0xDF#8)
    (h3 : b0 ≤ 0xEF#8) : utf8Wf (b0 :: b1 :: b2 :: t) = (utf8Three b0 b1 b2 && utf8Wf t) := by
  conv_lhs => unfold utf8Wf
  rw [if_neg h]
  simp only [h2, h3, if_true, if_false]

theorem utf8Wf_four {b0 b1 b2 b3 : Octet} {t : List Octet} (h : ¬ b0 ≤ 0x7F#8) (h2 : ¬ b0 ≤ 0xDF#8)
    (h3 : ¬ b0 ≤ 0xEF#8) : utf8Wf (b0 :: b1 :: b2 :: b3 :: t) = (utf8Four b0 b1 b2 b3 && utf8Wf t) := by
  conv_lhs => unfold utf8Wf
  rw [if_neg h]
  simp only [h2, h3, if_false]

/-- `octetIn` says what its name says. -/
theorem octetIn_iff {lo hi b : Octet} : octetIn lo hi b = true ↔ lo ≤ b ∧ b ≤ hi := by
  simp only [octetIn, Bool.and_eq_true, decide_eq_true_eq]

end Sys2Proof.Machine
end

