-- ==== Sys2Proof/Tests/Slice0.lean ====
section
/-! SUPPORT. The model's own tests: the vectors of 95_test_vectors.md, and for every statement with hypotheses a state
and operands that meet them. -/

namespace Sys2Proof.Tests

open Sys2Proof Sys2Proof.Machine

/-! ### Small states and frames -/

/-- A connected engine, `SRC_ADDR` 192.168.1.50. -/
def live : State := { State.reset with connected := true, srcValid := true, srcAddr := 0xC0A80132#32 }

/-- `s` with one transaction presented. -/
def shown (e : Encoded) (s : State) : State := setPending [.present e] s

/-- The state a step or an instruction goes on to; `State.reset` where it stops. -/
def after : Host.Outcome State Fault Refusal → State
  | .next t => t
  | .fault _ => State.reset
  | .refused _ => State.reset

/-- An outcome is a next state. -/
def goesOn : Host.Outcome State Fault Refusal → Bool
  | .next _ => true
  | .fault _ => false
  | .refused _ => false

theorem eq_next_after {o : Host.Outcome State Fault Refusal} (h : goesOn o = true) : o = .next (after o) := by
  cases o with
  | next t => rfl
  | fault r => cases h
  | refused r => cases h

/-- `n` zero octets, then the listed writes, then a checksum field (95_test_vectors.md, 3.1). -/
def built (n : Nat) (writes : List (Nat × Octet)) (trailer : BitVec 16) : List Octet :=
  (writes.foldl (fun f w => f.set w.1 w.2) (List.replicate (n - 2) 0x00#8)) ++ [hiOctet trailer, loOctet trailer]

/-- Frame S1 without its name's octets. -/
def phono : List (Nat × Octet) := [(52, 0x31#8), (53, 0x50#8), (54, 0x68#8), (55, 0x6F#8), (56, 0x6E#8), (57, 0x6F#8),
  (307, 0x80#8), (308, 0x00#8), (310, 0x96#8)]

/-- The name of S1, "Amp-1". -/
def amp1 : List (Nat × Octet) := [(19, 0x41#8), (20, 0x6D#8), (21, 0x70#8), (22, 0x2D#8), (23, 0x31#8)]

/-- Frame S1. -/
def frameS1 : List Octet := built 512 (amp1 ++ phono) 0x5CBA#16

/-- Frame V5: a malformed name. -/
def frameV5 : List Octet := built 512 ([(19, 0xC3#8), (20, 0x28#8)] ++ phono) 0xF7AE#16

/-- Frame V8: malformed names of channels 3 and 7. -/
def frameV8 : List Octet := built 512 (amp1 ++ phono ++ [(103, 0x31#8), (104, 0xE2#8), (105, 0x82#8), (171, 0x31#8),
  (172, 0x80#8)]) 0x3C1D#16

/-- A malformed name of channel 0, and one of channel 14 above a well-formed one of channel 0. -/
def frameBad0 : List Octet := built 512 [(52, 0x31#8), (53, 0x80#8)] 0x0000#16
def frameBad14 : List Octet := built 512 [(52, 0x31#8), (290, 0x31#8), (306, 0xC3#8)] 0x0000#16

/-- The first 14 octets of a frame and the 128 zeros after them. -/
def cmd (head : List Octet) : List Octet := head ++ List.replicate 128 0x00#8

/-- The heads of the datagrams sent. -/
def heads (s : State) : List (List Octet) := s.sent.map fun d => d.octets.take 14

/-! ### Well-formedness refuses what it must (30_encoding.md R63) -/

theorem test_wf_refuses_crc16 : (Instr.crc16 (List.replicate 65536 0x00#8)).wellFormed = false := by
  simp only [Instr.wellFormed, List.length_replicate]
  decide

theorem test_wf_refuses_decodeStatus :
    (Instr.decodeStatus 0x00000000#32 (List.replicate 65536 0x00#8)).wellFormed = false := by
  simp only [Instr.wellFormed, List.length_replicate]
  decide

theorem test_wf_takes_the_longest : (Instr.crc16 (List.replicate 65535 0x00#8)).wellFormed = true := by
  simp only [Instr.wellFormed, List.length_replicate]
  decide

/-! ### Decoding words written from R61 to R63 and R70 to R74 -/

theorem test_decode_crc16 : decode (.request [.word 0x00000002#32, .octet 0x31#8, .octet 0x32#8])
    = .ok (.crc16 [0x31#8, 0x32#8]) := by decide

theorem test_decode_sendTogglePower : decode (.request [.word 0x10000000#32]) = .ok .sendTogglePower := by decide

theorem test_decode_decodeStatus : decode (.request [.word 0x20000001#32, .word 0xC0A80132#32, .octet 0xAB#8])
    = .ok (.decodeStatus 0xC0A80132#32 [0xAB#8]) := by decide

theorem test_decode_rxTimeout : decode (.request [.word 0x30000000#32]) = .ok .rxTimeout := by decide

theorem test_decode_sendSetVolume : decode (.request [.word 0x4000FED4#32])
    = .ok (.sendSetVolume (BitVec.ofInt 16 (-300))) := by decide

theorem test_decode_sendSetOutput : decode (.request [.word 0x5000000F#32]) = .ok (.sendSetOutput 15#4) := by decide

theorem test_decode_db2reg : decode (.request [.word 0x6000FFD3#32]) = .ok (.db2reg (BitVec.ofInt 16 (-45))) := by
  decide

theorem test_decode_sendToggleMute : decode (.request [.word 0x70000000#32]) = .ok .sendToggleMute := by decide

theorem test_decode_reg2db : decode (.request [.word 0x800000FF#32]) = .ok (.reg2db 255#8) := by decide

theorem test_decode_cmdTogglePower : decode (.frame (cmd [0x44#8, 0x72#8, 0x00#8, 0x81#8, 0x00#8, 0x40#8, 0x01#8,
    0x01#8, 0x00#8, 0x00#8, 0x00#8, 0x00#8, 0x29#8, 0xC0#8])) = .ok (.cmdTogglePower 0x81#8 0x40#7 true 0x29C0#16) := by
  decide +kernel

theorem test_decode_cmdToggleMute : decode (.frame (cmd [0x44#8, 0x72#8, 0x00#8, 0x0B#8, 0x00#8, 0x05#8, 0x00#8,
    0x07#8, 0x00#8, 0x00#8, 0x00#8, 0x00#8, 0x55#8, 0x84#8])) = .ok (.cmdToggleMute 0x0B#8 0x05#7 false 0x5584#16) := by
  decide +kernel

theorem test_decode_cmdSetVolume : decode (.frame (cmd [0x44#8, 0x72#8, 0x00#8, 0x04#8, 0x00#8, 0x02#8, 0x00#8,
    0x04#8, 0xC1#8, 0xB4#8, 0x00#8, 0x00#8, 0xDD#8, 0x69#8])) = .ok (.cmdSetVolume 0x04#8 0x02#7 0xC1B4#16 0xDD69#16) := by
  decide +kernel

theorem test_decode_cmdSetOutput : decode (.frame (cmd [0x44#8, 0x72#8, 0x00#8, 0x00#8, 0x00#8, 0x00#8, 0x00#8,
    0x05#8, 0x41#8, 0x30#8, 0x00#8, 0x00#8, 0xB1#8, 0x96#8])) = .ok (.cmdSetOutput 0x00#8 0x00#7 0x13#5 0xB196#16) := by
  decide +kernel

/-- T95 to T99b: illegal requests are told apart by name. -/
theorem test_decode_illegal :
    decode (.request [.word 0x90000000#32]) = .error .reservedOpcode ∧
    decode (.request [.word 0xF000FFFF#32]) = .error .reservedOpcode ∧
    decode (.request [.word 0x10000001#32]) = .error .unusedOperandBits ∧
    decode (.request [.word 0x00010000#32]) = .error .reservedBits ∧
    decode (.request [.word 0x50000010#32]) = .error .unusedOperandBits ∧
    decode (.request [.word 0x80000100#32]) = .error .unusedOperandBits ∧
    decode (.request [.word 0x30008000#32]) = .error .unusedOperandBits := by decide

/-- A transaction that is no request, and a frame no row fits. -/
theorem test_decode_refuses :
    decode (.request []) = .error .requestWordMissing ∧
    decode (.request [.word 0x00000001#32]) = .error .operandDataMissing ∧
    decode (.request [.word 0x00000000#32, .octet 0x00#8]) = .error .operandDataExcess ∧
    decode (.request [.word 0x00000001#32, .word 0x00000000#32]) = .error .operandDataForm ∧
    decode (.frame (cmd [0x44#8, 0x72#8, 0x00#8, 0x00#8, 0x00#8, 0x00#8, 0x02#8, 0x01#8, 0x00#8, 0x00#8, 0x00#8,
      0x00#8, 0x00#8, 0x00#8])) = .error .notCommandFrame := by decide +kernel

/-- The table's numbers: a HOSTREQ row, and a CMDFRAME row with offset 0 in the most significant octet (R82). -/
theorem test_decodeTableWord :
    decodeTableWord 32 0x20000001 = some (.decodeStatus 0x00000000#32 [0x00#8]) ∧
    decodeTableWord 112 0x4472000000000007000000000000 = some (.cmdToggleMute 0x00#8 0x00#7 false 0x0000#16) := by
  decide +kernel

/-! ### CRC16 -/

/-- T2. -/
theorem test_crc16_of_digits : (after (exec (.crc16 [0x31#8, 0x32#8, 0x33#8, 0x34#8, 0x35#8, 0x36#8, 0x37#8, 0x38#8,
    0x39#8]) live)).responses = [0x000029B1#32] := by decide +kernel

/-- T1: the empty sequence is a special case. -/
theorem test_crc16_of_nothing : (after (exec (.crc16 []) live)).responses = [0x00000000#32] := by decide +kernel

/-! ### DB2REG and REG2DB -/

/-- T43, T41, T40: below the ceiling, and saturated. -/
theorem test_db2reg_below_the_ceiling :
    (after (exec (.db2reg 0xFFD3#16) live)).responses = [0x0000C1B4#32] ∧
    (after (exec (.db2reg 0x8000#16) live)).responses = [0x0000C300#32] := by decide +kernel

/-- T48, T49: clamped, with the sign of the original operand. -/
theorem test_db2reg_above_the_ceiling :
    (after (exec (.db2reg 0xFFFF#16) live)).responses = [0x0000C120#32] ∧
    (after (exec (.db2reg 0x0000#16) live)).responses = [0x00004120#32] := by decide +kernel

/-- T90, T93: both ends of the raw octet. -/
theorem test_reg2db :
    (after (exec (.reg2db 0x00#8) live)).responses = [0x0000FF3D#32] ∧
    (after (exec (.reg2db 0xFF#8) live)).responses = [0x0000003C#32] := by decide +kernel

/-- 43_volume_codec.md R188's table, one value a band. -/
theorem test_mag : [0, 1, 2, 3, 5, 9, 20, 33, 65, 129, 255, 257].map mag
    = [0x0000, 0x3F00, 0x3F80, 0x3FC0, 0x4020, 0x4090, 0x4120, 0x4184, 0x4202, 0x4281, 0x42FF, 0x4300] := by
  decide +kernel

/-! ### DECODE_STATUS and RX_TIMEOUT -/

/-- T20. -/
theorem test_decodeStatus_commits :
    let t := after (exec (.decodeStatus 0xC0A80132#32 frameS1) State.reset)
    t.connected = true ∧ t.srcAddr = 0xC0A80132#32 ∧ t.chPresent.toList = true :: List.replicate 14 false ∧
    t.powered = true ∧ t.volRaw = 150#8 ∧ t.csumOk = true ∧ t.responses = [0x00000000#32] := by decide +kernel

/-- T28: the lowest malformed channel is reported and nothing is written. -/
theorem test_decodeStatus_names_the_first :
    after (exec (.decodeStatus 0xC0A80132#32 frameV8) State.reset)
      = { State.reset with outputs := [.response 0x20000003#32] } := by decide +kernel

/-- T106, on the one register it writes. -/
theorem test_rxTimeout : (after (exec .rxTimeout live)).connected = false ∧
    (after (exec .rxTimeout live)).srcValid = true := by decide

/-- T26, T100, T28: UTF-8 fields. -/
theorem test_utf8 : utf8Wf [0x43#8, 0x61#8, 0x66#8, 0xC3#8, 0xA9#8] = true ∧ utf8Wf [0x41#8, 0xC3#8] = false ∧
    utf8Wf [0xE2#8, 0x82#8, 0x00#8] = false ∧ utf8Wf [0xED#8, 0xA0#8, 0x80#8] = false ∧
    utf8Wf [0xF4#8, 0x8F#8, 0xBF#8, 0xBF#8] = true ∧ utf8Wf [0xC1#8, 0xBF#8] = false := by decide

/-! ### The SEND operations -/

/-- T80. -/
theorem test_sendTogglePower : heads (after (exec .sendTogglePower live)) =
    [[0x44#8, 0x72#8, 0x00#8, 0x00#8, 0x00#8, 0x00#8, 0x01#8, 0x01#8, 0x00#8, 0x00#8, 0x00#8, 0x00#8, 0xA0#8, 0xBD#8],
     [0x44#8, 0x72#8, 0x00#8, 0x01#8, 0x00#8, 0x00#8, 0x01#8, 0x01#8, 0x00#8, 0x00#8, 0x00#8, 0x00#8, 0x4B#8, 0x9E#8],
     [0x44#8, 0x72#8, 0x00#8, 0x02#8, 0x00#8, 0x01#8, 0x01#8, 0x01#8, 0x00#8, 0x00#8, 0x00#8, 0x00#8, 0xDE#8, 0xBB#8],
     [0x44#8, 0x72#8, 0x00#8, 0x03#8, 0x00#8, 0x01#8, 0x01#8, 0x01#8, 0x00#8, 0x00#8, 0x00#8, 0x00#8, 0x35#8, 0x98#8]] := by
  decide +kernel

/-- T83. -/
theorem test_sendToggleMute : (heads (after (exec .sendToggleMute { live with muted := true, seq := 8#8 })))[3]? =
    some [0x44#8, 0x72#8, 0x00#8, 0x0B#8, 0x00#8, 0x05#8, 0x00#8, 0x07#8, 0x00#8, 0x00#8, 0x00#8, 0x00#8, 0x55#8,
      0x84#8] := by decide +kernel

/-- T86: saturation, and the counter's wrap. -/
theorem test_sendSetVolume :
    let t := after (exec (.sendSetVolume 0xFED4#16) { live with seq := 0xFC#8 })
    (heads t)[3]? = some [0x44#8, 0x72#8, 0x00#8, 0xFF#8, 0x00#8, 0x7F#8, 0x00#8, 0x04#8, 0xC3#8, 0x00#8, 0x00#8, 0x00#8,
      0x6C#8, 0x87#8] ∧ t.seq = 0x00#8 := by decide +kernel

/-- T67, T69: the shift of the low octet. -/
theorem test_sendSetOutput :
    (heads (after (exec (.sendSetOutput 7#4) live)))[0]? = some [0x44#8, 0x72#8, 0x00#8, 0x00#8, 0x00#8, 0x00#8, 0x00#8,
      0x05#8, 0x40#8, 0xE0#8, 0x00#8, 0x00#8, 0xA2#8, 0xB6#8] ∧
    (heads (after (exec (.sendSetOutput 9#4) live)))[0]? = some [0x44#8, 0x72#8, 0x00#8, 0x00#8, 0x00#8, 0x00#8, 0x00#8,
      0x05#8, 0x41#8, 0x10#8, 0x00#8, 0x00#8, 0x37#8, 0x50#8] := by decide +kernel

/-- T87: dropped. -/
theorem test_send_dropped : after (exec (.sendSetOutput 9#4) State.reset)
    = { State.reset with outputs := [.response 0x00000000#32] } := by decide +kernel

/-! ### Command frames shown to the classifier (30_encoding.md R82) -/

/-- The third frame of T88, and the same with a wrong checksum. -/
theorem test_cmdTogglePower :
    (after (exec (.cmdTogglePower 0x82#8 0x41#7 true 0xBCE5#16) live)).outputs
      = [.report (.producible 0x82#8 (.power true))] ∧
    (after (exec (.cmdTogglePower 0x82#8 0x41#7 true 0xBCE4#16) live)).outputs = [.report .notProducible] := by
  decide +kernel

/-- The first frame of T83, and one whose sequence octets disagree. -/
theorem test_cmdToggleMute :
    (after (exec (.cmdToggleMute 0x08#8 0x04#7 false 0xC0A1#16) live)).outputs
      = [.report (.producible 0x08#8 (.mute false))] ∧
    (after (exec (.cmdToggleMute 0x08#8 0x05#7 false 0xC0A1#16) live)).outputs = [.report .notProducible] := by
  decide +kernel

/-- The first frame of T84, and a payload the codec never produces. -/
theorem test_cmdSetVolume :
    (after (exec (.cmdSetVolume 0x04#8 0x02#7 0xC1B4#16 0xDD69#16) live)).outputs
      = [.report (.producible 0x04#8 (.volume 0xC1B4#16))] ∧
    volumePayload 0xC1B5#16 = false ∧ volumePayload 0xC118#16 = false ∧ volumePayload 0xC301#16 = false ∧
    volumePayload 0xC300#16 = true := by decide +kernel

/-- T71, and a payload between two indices. -/
theorem test_cmdSetOutput :
    (after (exec (.cmdSetOutput 0x00#8 0x00#7 0x13#5 0xB196#16) live)).outputs
      = [.report (.producible 0x00#8 (.output 11#4))] ∧
    outputIndexOf (selPayload 0x01#5) = none := by decide +kernel

/-- T95: a step answers an illegal request. -/
theorem test_step_illegal : after (step (shown (.request [.word 0x90000000#32]) live))
    = { live with outputs := [.response 0x40000000#32] } := by decide +kernel

/-! ### What the host places is what the next step runs -/

theorem test_withFetchWord : after (step (State.reset.withFetchWord 32 0x80000096))
    = { State.reset with outputs := [.response 0x0000FFD3#32] } := by decide +kernel

/-! ### Witnesses: for each statement with hypotheses, what meets them

Where a statement has several clauses, each has its own witness, at the boundary of its range. -/

theorem witness_DecodeOfEncodeIsTheInstruction :
    (Instr.decodeStatus 0x00000001#32 (List.replicate 65535 0x00#8)).wellFormed = true := by
  simp only [Instr.wellFormed, List.length_replicate]
  decide

theorem witness_DecodedTransactionIsItsEncoding :
    decode (.request [.word 0x5000000F#32]) = .ok (.sendSetOutput 15#4) := by decide

/-- The least reserved operation code; the highest index that is legal and the least that is not. -/
theorem witness_IllegalRequestsAreAnsweredIllegalOp :
    (shown (.request [.word 0x90000000#32, .octet 0xAB#8]) live).pending
      = .present (.request (.word 0x90000000#32 :: [.octet 0xAB#8])) :: [] ∧
    9 ≤ (0x90000000#32 >>> 28).toNat ∧ (0x08000000#32).extractLsb' 16 12 ≠ 0#12 ∧
    ((0x30000001#32 >>> 28).toNat = 3 ∧ (0x30000001#32).toNat % 65536 ≠ 0) ∧
    ((0x50000010#32 >>> 28).toNat = 5 ∧ 16 ≤ (0x50000010#32).toNat % 65536) ∧
    ((0x80000100#32 >>> 28).toNat = 8 ∧ 256 ≤ (0x80000100#32).toNat % 65536) := by decide

/-- The clause on requests that are not illegal: an operand at its greatest legal value, with an octet too many. -/
theorem witness_IllegalRequestsAreAnsweredIllegalOp_not :
    (0x5000000F#32 >>> 28).toNat = 5 ∧ (0x5000000F#32).extractLsb' 16 12 = 0#12 ∧
    ¬ 16 ≤ (0x5000000F#32).toNat % 65536 ∧
    decode (.request [.word 0x5000000F#32, .octet 0x00#8]) = .error .operandDataExcess := by decide

theorem witness_StepRunsTheDecodedInstruction :
    (shown (.request [.word 0x30000000#32]) live).pending = .present (.request [.word 0x30000000#32]) :: [] ∧
    decode (.request [.word 0x30000000#32]) = .ok .rxTimeout := by decide

theorem witness_NothingPresentedChangesNothing : live.pending = [] := rfl

theorem witness_TransactionThatIsNoRequestIsRefused :
    (shown (.request [.word 0x00000001#32]) live).pending = .present (.request [.word 0x00000001#32]) :: [] ∧
    decode (.request [.word 0x00000001#32]) = .error .operandDataMissing ∧
    DecodeError.operandDataMissing.illegal = false ∧ DecodeError.operandDataMissing ≠ .notCommandFrame := by decide

theorem witness_PresentedFramesAreClassified :
    (shown (.frame [0x44#8]) live).pending = .present (.frame [0x44#8]) :: [] := rfl

theorem witness_ResetInputRestoresTheRegisters :
    (setPending [.reset, .reset] live).pending = .reset :: [.reset] := rfl

theorem witness_Crc16AnswersTheChecksum : (List.replicate 65535 (0x00 : Octet)).length ≤ 65535 := by
  rw [List.length_replicate]

theorem witness_ResidueIsZeroExactlyAfterTheChecksum : [0x31#8] ≠ [] := by decide

/-- Each band's first and last step, and the first step past the last band. -/
theorem witness_IncrementFollowsTheLeastExponent :
    (3 ≤ 2 ^ 2) ∧ (1 ≤ 1 ∧ 2 ^ (1 - 1) < 2 ∧ 2 ≤ 2 ^ 1) ∧ (1 ≤ 9 ∧ 2 ^ (9 - 1) < 257 ∧ 257 ≤ 2 ^ 9) ∧ 257 ≤ 257 := by
  decide

theorem witness_MagnitudeIsLinearInEachBand : 0 ≤ 8 ∧ 8 ≤ 8 ∧ (2 ≤ 2 ∧ 2 ≤ 256) ∧ (2 ≤ 256 ∧ 256 ≤ 256) := by decide

theorem witness_MagnitudeSaturatesAndIncreases :
    256 ≤ 256 ∧ (1 ≤ 1 ∧ 1 < 2 ∧ 2 ≤ 256) ∧ (1 ≤ 255 ∧ 255 < 256 ∧ 256 ≤ 256) ∧ (-256 : Int) ≤ -256 ∧
    ((-256 : Int) ≤ -20 ∧ (-20 : Int) ≤ -20 ∧ dbToRegister (-20) = dbToRegister (-20)) := by decide

theorem witness_RegisterHasClampMagnitudeAndSign :
    (-20 : Int) ≤ -20 ∧ ((-20 : Int) < -19 ∧ (-19 : Int) < 0) ∧ ((-20 : Int) < -1 ∧ (-1 : Int) < 0) ∧ (0 : Int) ≤ 0 := by
  decide

/-- T104, T105: one octet too few, one too many. -/
theorem witness_WrongLengthRaisesFrameLength :
    (List.replicate 511 (0x00 : Octet)).length < 512 ∧
    live.config.statusBufOctets < (List.replicate 513 (0x00 : Octet)).length := by
  simp only [List.length_replicate]
  decide

/-- The first clause: V5 (T25). -/
theorem witness_MalformedTextRaisesMalformedPayload_name :
    LengthAdmitted live frameV5 ∧ utf8Wf (fieldAt frameV5 19 31) = false := by decide +kernel

/-- The second clause for channel 0. -/
theorem witness_MalformedTextRaisesMalformedPayload_first :
    LengthAdmitted live frameBad0 ∧ utf8Wf (fieldAt frameBad0 19 31) = true ∧ flaggedIn frameBad0 0 ∧
    utf8Wf (fieldAt frameBad0 (53 + 17 * 0) 16) = false := by decide +kernel

/-- The second clause for channel 14, a well-formed name of channel 0 below it. -/
theorem witness_MalformedTextRaisesMalformedPayload_last :
    LengthAdmitted live frameBad14 ∧ utf8Wf (fieldAt frameBad14 19 31) = true ∧ flaggedIn frameBad14 14 ∧
    utf8Wf (fieldAt frameBad14 (53 + 17 * 14) 16) = false ∧
    ∀ k : Fin 15, k < 14 → flaggedIn frameBad14 k.val → utf8Wf (fieldAt frameBad14 (53 + 17 * k.val) 16) = true := by
  decide +kernel

/-- S1: channel 0 is flagged and channel 14 is not. -/
theorem witness_CommitWritesTheSnapshot :
    LengthAdmitted live frameS1 ∧ TextsWellFormed frameS1 ∧ flaggedIn frameS1 0 ∧ ¬ flaggedIn frameS1 14 := by
  decide +kernel

/-- The encoding clause at the greatest length ARG holds. -/
theorem witness_CommitWritesTheSnapshot_encoding : (List.replicate 65535 (0x00#8 : Octet)).length ≤ 65535 :=
  List.length_replicate.le

/-- The first clause: S1 goes on. -/
theorem witness_OneChangedOctetDoesNotPass_commit :
    LengthAdmitted live frameS1 ∧ TextsWellFormed frameS1 ∧
    goesOn (exec (.decodeStatus 0x00000001#32 frameS1) live) = true := by decide +kernel

/-- The second clause: S1 passes; its first and its last covered octet changed. -/
theorem witness_OneChangedOctetDoesNotPass_changed :
    0 < frameS1.length - 2 ∧ 0x01#8 ≠ octetAt frameS1 0 ∧ 509 < frameS1.length - 2 ∧ 0x01#8 ≠ octetAt frameS1 509 ∧
    goesOn (exec (.decodeStatus 0x00000001#32 frameS1) live) = true ∧
    (after (exec (.decodeStatus 0x00000001#32 frameS1) live)).outputs = live.outputs ++ [.response 0x00000000#32] ∧
    goesOn (exec (.decodeStatus 0x00000001#32 (frameS1.set 0 0x01#8)) live) = true ∧
    goesOn (exec (.decodeStatus 0x00000001#32 (frameS1.set 509 0x01#8)) live) = true ∧
    TextsWellFormed (frameS1.set 509 0x01#8) := by decide +kernel

theorem witness_DecoderReadsNoRegister :
    State.reset.config = live.config ∧ goesOn (exec (.decodeStatus 0x00000001#32 frameS1) live) = true ∧
    goesOn (exec (.decodeStatus 0x00000001#32 frameS1) State.reset) = true ∧ flaggedIn frameS1 0 := by decide +kernel

/-- S1 with octet 0 and the ignored bits of octets 307 and 308 set. -/
def otherS1 : List Octet := ((frameS1.set 0 0xFF#8).set 307 0xFF#8).set 308 0xC1#8

theorem witness_UndescribedOctetsReachNoRegister_described :
    otherS1.length = frameS1.length ∧
    ∀ a, (19 ≤ a ∧ a ≤ 49) ∨ (52 ≤ a ∧ a ≤ 306) ∨ a = 310 → octetAt otherS1 a = octetAt frameS1 a := by
  refine ⟨by simp only [otherS1, List.length_set], fun a ha => ?_⟩
  simp only [otherS1, octetAt, List.getD_eq_getElem?_getD]
  rw [List.getElem?_set_ne (by omega), List.getElem?_set_ne (by omega), List.getElem?_set_ne (by omega)]

theorem witness_UndescribedOctetsReachNoRegister :
    octetAt otherS1 307 &&& 0x80#8 = octetAt frameS1 307 &&& 0x80#8 ∧
    octetAt otherS1 308 &&& 0x3E#8 = octetAt frameS1 308 &&& 0x3E#8 ∧
    goesOn (exec (.decodeStatus 0x00000001#32 frameS1) live) = true ∧
    goesOn (exec (.decodeStatus 0x00000001#32 otherS1) live) = true := by decide +kernel

theorem witness_DroppedCommandChangesNothing :
    isSend (.sendSetOutput 15#4) = true ∧ State.reset.connected = false := by decide

theorem witness_TogglePowerEmitsFourFrames : State.reset.connected = false ∧ live.connected = true := by decide

theorem witness_ToggleMuteEmitsFourFrames : State.reset.connected = false ∧ live.connected = true := by decide

theorem witness_SetVolumeEmitsFourFrames : State.reset.connected = false ∧ live.connected = true := by decide

theorem witness_SetOutputEmitsFourFrames : State.reset.connected = false ∧ live.connected = true := by decide

/-- A zero octet among the first, and both ends of the tail. -/
theorem witness_WireFrameOctetByOctet : (14 ≤ 14 ∧ 14 ≤ 141) ∧ (14 ≤ 141 ∧ 141 ≤ 141) := by decide

theorem witness_TwoCommandsCarryEightSequenceValues :
    isSend .sendToggleMute = true ∧ isSend (.sendSetVolume 0xFFD8#16) = true ∧ live.connected = true ∧
    goesOn (exec .sendToggleMute live) = true ∧
    goesOn (exec (.sendSetVolume 0xFFD8#16) (after (exec .sendToggleMute live))) = true := by decide +kernel

theorem inv_live_shown (e : Encoded) : (shown e live).Inv where
  connected_has_source := fun _ => rfl
  seq_multiple_of_four := rfl
  name_utf8 := by show utf8Wf State.reset.name.toList = true; decide
  channel_utf8 := by
    show ∀ i : Fin 15, State.reset.chPresent[i] = true → utf8Wf State.reset.chName[i].toList = true
    decide
  config_legal := by show State.reset.config.Legal; decide
  txf_wf := rfl
  sent_producible := fun _ h => absurd h List.not_mem_nil

theorem witness_EveryStepKeepsTheLegalStates :
    (shown (.request [.word 0x10000000#32]) live).Inv ∧
    step (shown (.request [.word 0x10000000#32]) live)
      = .next (after (step (shown (.request [.word 0x10000000#32]) live))) :=
  ⟨inv_live_shown _, eq_next_after (by decide +kernel)⟩

/-- The clauses on `SEQ`, on `CONNECTED` and on the others. -/
theorem witness_OnlyTheNamedOperationsWriteARegister :
    (goesOn (exec .sendToggleMute live) = true ∧ (after (exec .sendToggleMute live)).seq ≠ live.seq) ∧
    (goesOn (exec .rxTimeout live) = true ∧ (after (exec .rxTimeout live)).connected ≠ live.connected) ∧
    isDecodeStatus .rxTimeout = false := by decide +kernel

/-- The clause on `TXF`: whatever the free value is, a SEND leaves canonical contents, which these are not. -/
theorem witness_OnlyTheNamedOperationsWriteARegister_txf :
    exec .sendToggleMute { live with txf := [(142, 0x01#8)] }
      = .next (after (exec .sendToggleMute { live with txf := [(142, 0x01#8)] })) ∧
    (after (exec .sendToggleMute { live with txf := [(142, 0x01#8)] })).txf ≠ [(142, 0x01#8)] := by
  have run : exec .sendToggleMute { live with txf := [(142, 0x01#8)] }
      = .next (afterSend 0x01#8 0x07#8 0x0000#16 { live with txf := [(142, 0x01#8)] }) := by
    rw [afterSend, ← emissions_eq_map]
    exact sendCommand_connected (s := { live with txf := [(142, 0x01#8)] }) rfl
  rw [run]
  refine ⟨rfl, fun same => ?_⟩
  have canonical := wf_forgetTxf { live with txf := [(142, 0x01#8)] }
  change Memory.wf (after (.next (afterSend 0x01#8 0x07#8 0x0000#16 _))).txf = true at canonical
  rw [same] at canonical
  exact absurd canonical (by decide)

/-- An engine that knows its source and channel 14, and a timeout. -/
theorem witness_SourceAndChannelsAreNeverForgotten :
    let s := shown (.request [.word 0x30000000#32]) { live with chPresent := live.chPresent.set 14 true }
    s.pending.head? ≠ some .reset ∧ goesOn (step s) = true ∧ s.srcValid = true ∧
    s.chPresent[(14 : Fin 15)] = true := by decide

theorem witness_EachRequestGetsOneResponseAtTheEnd :
    let s := shown (.request [.word 0x70000000#32]) live
    goesOn (step s) = true ∧ s.pending = .present (.request [.word 0x70000000#32]) :: [] := by decide +kernel

/-- A connected engine that has sent nothing: its counter is 0, the number of its datagrams. -/
theorem witness_NthDatagramCarriesItsNumber :
    let s := shown (.request [.word 0x70000000#32]) live
    s.config.seqPreIncrement = false ∧ s.pending.head? ≠ some .reset ∧ s.seq.toNat = s.sent.length % 256 ∧
    s.sent = [] ∧ goesOn (step s) = true := by decide +kernel

/-- Both ends of `TXF` and of an operand buffer. -/
theorem witness_SixteenBitAccessesAreBigEndian :
    Memory.wf live.txf = true ∧ 0 + 1 < 142 ∧ 140 + 1 < 142 ∧ 0 + 1 < frameS1.length ∧ 510 + 1 < frameS1.length := by
  decide +kernel

end Sys2Proof.Tests
end

section
/-! SUPPORT. What the request decoder can answer: an operation, or a reason that is not a frame's (30_encoding.md R61 to
R63, R77). -/

namespace Sys2Proof

/-- An instruction of the HOSTREQ format: it is encoded as a request (30_encoding.md R60). -/
def Instr.IsOperation (i : Instr) : Prop := ∃ units, encode i = .request units

/-- The answers open to the decoder of requests. -/
def RequestVerdict : Except DecodeError Instr → Prop
  | .ok i => i.IsOperation
  | .error why => why ≠ .notCommandFrame

theorem requestVerdict_operandOctets {f : List Octet → Instr} (hf : ∀ os, (f os).IsOperation) (n : Nat)
    (data : List PortUnit) : RequestVerdict ((operandOctets n data).map f) := by
  cases h : operandOctets n data with
  | ok os => exact hf os
  | error why => obtain rfl | rfl | rfl := operandOctets_error h <;> exact nofun

theorem requestVerdict_withoutData {i : Instr} (hi : i.IsOperation) (data : List PortUnit) :
    RequestVerdict (withoutData i data) := by
  cases h : withoutData i data with
  | ok j => exact (of_withoutData h).2 ▸ hi
  | error why => cases withoutData_error h; exact nofun

theorem requestVerdict_withoutOperand {i : Instr} (hi : i.IsOperation) (arg : BitVec 16) (data : List PortUnit) :
    RequestVerdict (withoutOperand i arg data) := by
  unfold withoutOperand
  split
  · exact requestVerdict_withoutData hi data
  · exact nofun

theorem requestVerdict_senderAndFrame (n : Nat) : ∀ data, RequestVerdict (senderAndFrame n data)
  | [] => nofun
  | .octet _ :: _ => nofun
  | .word _ :: frame => requestVerdict_operandOctets (fun _ => ⟨_, rfl⟩) n frame

/-- A request decodes to an operation, or is refused for a reason of its own, never as a frame. -/
theorem requestVerdict_decodeRequest (units : List PortUnit) : RequestVerdict (decodeRequest units) := by
  unfold decodeRequest
  split
  · next w data =>
    simp only
    split
    · exact nofun
    split
    · exact requestVerdict_operandOctets (fun _ => ⟨_, rfl⟩) _ data
    · exact requestVerdict_withoutOperand ⟨_, rfl⟩ _ data
    · exact requestVerdict_senderAndFrame _ data
    · exact requestVerdict_withoutOperand ⟨_, rfl⟩ _ data
    · exact requestVerdict_withoutData ⟨_, rfl⟩ data
    · split
      · exact requestVerdict_withoutData ⟨_, rfl⟩ data
      · exact nofun
    · exact requestVerdict_withoutData ⟨_, rfl⟩ data
    · exact requestVerdict_withoutOperand ⟨_, rfl⟩ _ data
    · split
      · exact requestVerdict_withoutData ⟨_, rfl⟩ data
      · exact nofun
    · exact nofun
  · exact nofun

theorem isOperation_of_decode_request {units : List PortUnit} {i : Instr} (h : decode (.request units) = .ok i) :
    i.IsOperation := by
  have verdict := requestVerdict_decodeRequest units
  rwa [show decodeRequest units = .ok i from h] at verdict

theorem decode_request_ne_notCommandFrame (units : List PortUnit) :
    decode (.request units) ≠ .error .notCommandFrame := by
  intro h
  have verdict := requestVerdict_decodeRequest units
  rw [show decodeRequest units = .error .notCommandFrame from h] at verdict
  exact verdict rfl

end Sys2Proof
end

section
/-! SUPPORT. What the outside sees of one operation and of one step (00_scope.md R8; 20_memory.md R51). -/

namespace Sys2Proof.Machine

/-- From `s` to `t` the outside sees no datagram or four, and then one response. -/
def Answers (s t : State) : Prop :=
  ∃ (ds : List Datagram) (w : BitVec 32), (ds = [] ∨ ds.length = 4) ∧
    t.outputs = s.outputs ++ ds.map .emit ++ [.response w]

/-- A response alone answers. -/
theorem answers_of_response {s t : State} {w : BitVec 32} (h : t.outputs = s.outputs ++ [.response w]) :
    Answers s t :=
  ⟨[], w, .inl rfl, by rw [h, List.map_nil, List.append_nil]⟩

theorem answers_afterSend (a b : Octet) (p : BitVec 16) (s : State) : Answers s (afterSend a b p s) :=
  ⟨_, _, .inr (length_emitted _ a b p 4 _), rfl⟩

theorem answers_of_exec_send {i : Instr} {s t : State} (hi : isSend i = true) (h : exec i s = .next t) :
    Answers s t := by
  obtain ⟨-, run⟩ | ⟨-, a, b, p, -, run⟩ := exec_send_cases hi s <;> cases run.symm.trans h
  · exact answers_of_response (respond_outputs ..)
  · exact answers_afterSend a b p s

theorem answers_of_exec_decodeStatus {sender : BitVec 32} {rxf : List Octet} {s t : State}
    (h : exec (.decodeStatus sender rxf) s = .next t) : Answers s t := by
  obtain ⟨r, run⟩ | ⟨f, -, -, -, run⟩ := exec_decodeStatus_cases sender rxf s <;> cases run.symm.trans h
  · exact answers_of_response (raise_outputs ..)
  · exact answers_of_response (respond_outputs ..)

/-- Every operation ends with its one response (R8). -/
theorem answers_of_exec {i : Instr} {s t : State} (hi : i.IsOperation) (h : exec i s = .next t) : Answers s t := by
  cases i with
  | sendTogglePower | sendToggleMute | sendSetVolume _ | sendSetOutput _ => exact answers_of_exec_send rfl h
  | decodeStatus sender rxf => exact answers_of_exec_decodeStatus h
  | crc16 _ | rxTimeout | db2reg _ | reg2db _ => cases h; exact answers_of_response rfl
  | cmdTogglePower _ _ _ _ | cmdToggleMute _ _ _ _ | cmdSetVolume _ _ _ _ | cmdSetOutput _ _ _ _ =>
    obtain ⟨_, no⟩ := hi
    cases no

/-- No instruction recalls an event. -/
theorem exec_outputs_grow {i : Instr} {s t : State} (h : exec i s = .next t) :
    ∃ es, t.outputs = s.outputs ++ es := by
  obtain ⟨e, -, rfl⟩ | ⟨-, rfl⟩ | ⟨_, _, _, -, -, -, -, rfl⟩ | ⟨-, -, a, b, p, -, rfl⟩ := exec_cases h
  · exact ⟨_, rfl⟩
  · exact ⟨_, rfl⟩
  · exact ⟨_, rfl⟩
  · exact ⟨_, List.append_assoc ..⟩

/-- No step recalls an event, the reset input included. -/
theorem step_outputs_grow {s t : State} (h : step s = .next t) : ∃ es, t.outputs = s.outputs ++ es := by
  obtain ⟨-, rfl⟩ | ⟨_, -, rfl⟩ | ⟨_, rest, _, -, -, run⟩ | ⟨_, _, _, -, -, -, rfl⟩ | ⟨_, _, -, -, rfl⟩ := step_cases h
  case inr.inr.inl => exact exec_outputs_grow (s := setPending rest s) run
  · exact ⟨[], (List.append_nil _).symm⟩
  · exact ⟨[], (List.append_nil _).symm⟩
  · exact ⟨_, rfl⟩
  · exact ⟨_, rfl⟩

/-- A step that takes a request and goes on answers it, as an operation or as an illegal request. -/
theorem answers_of_step_request {s t : State} {units : List PortUnit} {rest : List Input}
    (hp : s.pending = .present (.request units) :: rest) (h : step s = .next t) : Answers s t := by
  obtain ⟨hq, -⟩ | ⟨_, hq, -⟩ | ⟨_, _, _, hq, hd, run⟩ | ⟨_, _, _, hq, -, -, rfl⟩ | ⟨_, _, hq, hd, -⟩ :=
    step_cases h <;> cases hp.symm.trans hq
  · exact answers_of_exec (s := setPending rest s) (isOperation_of_decode_request hd) run
  · exact answers_of_response rfl
  · exact absurd hd (decode_request_ne_notCommandFrame units)

/-- A step on a transaction that decodes (R8). -/
theorem step_of_decode {s : State} {e : Encoded} {rest : List Input} {i : Instr}
    (hp : s.pending = .present e :: rest) (hd : decode e = .ok i) : step s = exec i (setPending rest s) := by
  simp only [step, hp, hd]

/-- Settles O5: the step on a transaction that decodes, with the transaction taken written out. -/
theorem stepRunsTheDecodedInstruction : Obligations.StepRunsTheDecodedInstruction :=
  fun _ _ _ _ hp hd => step_of_decode hp hd

/-- Settles O45: no step recalls an event, and a request that a step takes is answered; the two histories are read off
the events. -/
theorem eachRequestGetsOneResponseAtTheEnd : Obligations.EachRequestGetsOneResponseAtTheEnd := by
  intro s t h
  refine ⟨step_outputs_grow h, fun units rest hp => ?_⟩
  obtain ⟨ds, w, count, events⟩ := answers_of_step_request hp h
  exact ⟨ds, w, count, events, sent_of_outputs events, responses_of_outputs events⟩

end Sys2Proof.Machine
end

section
/-! SUPPORT. The frames that the encoder writes are read back and classified as its own (30_encoding.md R70 to R76,
R82). -/

namespace Sys2Proof

open Laws (seqhOctet_and stateOctet_and selPayload_and)

/-! ### Fields of a command frame -/

theorem octet_and_ones (x : Octet) : x &&& 0xFF#8 = x := BitVec.and_allOnes

theorem extract_seqhOctet (seqh : BitVec 7) : (seqhOctet seqh).extractLsb' 0 7 = seqh := extract_append_low _ _

/-- Octet 5 as R71 has it, `SEQ >> 1`, has bit 7 zero. -/
theorem seqhOctet_shift (v : Octet) : seqhOctet ((v >>> 1).extractLsb' 0 7) = v >>> 1 := by
  apply BitVec.eq_of_toNat_eq
  have shifted : (v >>> 1).toNat < 2 ^ 7 := by
    rw [BitVec.toNat_ushiftRight, Nat.shiftRight_eq_div_pow]
    omega
  rw [seqhOctet, BitVec.toNat_append, BitVec.toNat_zero, Nat.zero_shiftLeft, Nat.zero_or,
    BitVec.extractLsb'_toNat, Nat.shiftRight_zero, Nat.mod_eq_of_lt shifted]

theorem stateOctet_bit (a : Bool) : (stateOctet a).getLsbD 0 = a := by
  cases a <;> rfl

/-- The five bits of an output payload that the table leaves free (R74). -/
def payloadSel (p : BitVec 16) : BitVec 5 := (hiOctet p).extractLsb' 0 1 ++ (loOctet p).extractLsb' 4 4

theorem payloadSel_selPayload (sel : BitVec 5) : payloadSel (selPayload sel) = sel := by
  revert sel
  decide

/-! ### Which rows of the table fit a frame whose octet 5 has bit 7 zero: octet 7 tells them apart -/

section
variable (seq a b : Octet) (seqh : BitVec 7) (p csum : BitVec 16)

theorem rowTogglePower_fits :
    rowTogglePower.fits (frameCover seq (seqhOctet seqh) a b p ++ [hiOctet csum, loOctet csum]) = true ↔
      a &&& 0xFE#8 = 0x00#8 ∧ b = 0x01#8 ∧ hiOctet p = 0x00#8 ∧ loOctet p = 0x00#8 := by
  simp [FrameRow.fits, frameCover, rowTogglePower, octetsMatch, seqhOctet_and, octet_and_ones]

theorem rowToggleMute_fits :
    rowToggleMute.fits (frameCover seq (seqhOctet seqh) a b p ++ [hiOctet csum, loOctet csum]) = true ↔
      a &&& 0xFE#8 = 0x00#8 ∧ b = 0x07#8 ∧ hiOctet p = 0x00#8 ∧ loOctet p = 0x00#8 := by
  simp [FrameRow.fits, frameCover, rowToggleMute, octetsMatch, seqhOctet_and, octet_and_ones]

theorem rowSetVolume_fits :
    rowSetVolume.fits (frameCover seq (seqhOctet seqh) a b p ++ [hiOctet csum, loOctet csum]) = true ↔
      a = 0x00#8 ∧ b = 0x04#8 := by
  simp [FrameRow.fits, frameCover, rowSetVolume, octetsMatch, seqhOctet_and, octet_and_ones]

theorem rowSetOutput_fits :
    rowSetOutput.fits (frameCover seq (seqhOctet seqh) a b p ++ [hiOctet csum, loOctet csum]) = true ↔
      a = 0x00#8 ∧ b = 0x05#8 ∧ hiOctet p &&& 0xFE#8 = 0x40#8 ∧ loOctet p &&& 0x0F#8 = 0x00#8 := by
  simp [FrameRow.fits, frameCover, rowSetOutput, octetsMatch, seqhOctet_and, octet_and_ones]

end

/-! ### Each row's frame is read back -/

section
variable (seq : Octet) (seqh : BitVec 7) (csum : BitVec 16)

theorem decodeFrame_cmdTogglePower (a : Bool) :
    decodeFrame (frameOctets seq (seqhOctet seqh) (stateOctet a) 0x01#8 0x0000#16 csum)
      = .ok (.cmdTogglePower seq seqh a csum) := by
  have fits := (rowTogglePower_fits seq (stateOctet a) 0x01#8 seqh 0x0000#16 csum).mpr
    ⟨stateOctet_and a, rfl, rfl, rfl⟩
  simp only [decodeFrame_frameOctets, fits, if_true, extract_seqhOctet, stateOctet_bit]

theorem decodeFrame_cmdToggleMute (a : Bool) :
    decodeFrame (frameOctets seq (seqhOctet seqh) (stateOctet a) 0x07#8 0x0000#16 csum)
      = .ok (.cmdToggleMute seq seqh a csum) := by
  have fits := (rowToggleMute_fits seq (stateOctet a) 0x07#8 seqh 0x0000#16 csum).mpr
    ⟨stateOctet_and a, rfl, rfl, rfl⟩
  have other : ¬((0x07#8 : Octet) = 0x01#8) := by decide
  simp only [decodeFrame_frameOctets, rowTogglePower_fits, other, false_and, and_false, if_false, fits, if_true,
    extract_seqhOctet, stateOctet_bit]

theorem decodeFrame_cmdSetVolume (p : BitVec 16) :
    decodeFrame (frameOctets seq (seqhOctet seqh) 0x00#8 0x04#8 p csum) = .ok (.cmdSetVolume seq seqh p csum) := by
  simp [decodeFrame_frameOctets, rowTogglePower_fits, rowToggleMute_fits, rowSetVolume_fits, extract_seqhOctet]

theorem decodeFrame_cmdSetOutput (sel : BitVec 5) :
    decodeFrame (frameOctets seq (seqhOctet seqh) 0x00#8 0x05#8 (selPayload sel) csum)
      = .ok (.cmdSetOutput seq seqh sel csum) := by
  have sel_back : (hiOctet (selPayload sel)).extractLsb' 0 1 ++ (loOctet (selPayload sel)).extractLsb' 4 4 = sel :=
    payloadSel_selPayload sel
  simp [decodeFrame_frameOctets, rowTogglePower_fits, rowToggleMute_fits, rowSetVolume_fits, rowSetOutput_fits,
    selPayload_and, extract_seqhOctet, sel_back]

end

end Sys2Proof

namespace Sys2Proof.Machine

/-! ### The payloads of the volume and output commands are the classifier's -/

/-- The loop of R185, stopped and taken up again. -/
theorem magSteps_add (m n k acc : Nat) : magSteps (m + n) k acc = magSteps n (k + m) (magSteps m k acc) := by
  induction m generalizing k acc with
  | zero => rw [Nat.zero_add, magSteps, Nat.add_zero]
  | succ m ih => rw [Nat.succ_add, magSteps, magSteps, ih, Nat.add_assoc, Nat.add_comm 1 m]

/-- Each magnitude that the loop passes through, under the sign bit, is on the curve. -/
theorem onCurve_magSteps {n j : Nat} (k acc : Nat) (h : j ≤ n) :
    onCurve (0x8000#16 ||| BitVec.ofNat 16 (magSteps j k acc)) n k acc = true := by
  induction j generalizing n k acc with
  | zero => cases n <;> simp [magSteps, onCurve]
  | succ j ih =>
    obtain ⟨n, rfl⟩ : ∃ m, n = m + 1 := ⟨n - 1, by omega⟩
    rw [onCurve, magSteps, ih _ _ (by omega), Bool.or_true]

/-- The loop beyond step 20, at most 236 steps more (R82). -/
theorem magLoop_from_twenty {K : Nat} (h : 20 ≤ K) :
    ∃ j ≤ 236, magLoop K = magSteps j 21 (magLoop 20) := by
  have count : min K 256 - 1 = 19 + (min K 256 - 20) := by omega
  refine ⟨min K 256 - 20, by omega, ?_⟩
  rw [magLoop, if_neg (by omega), count, magSteps_add]
  rfl

/-- Every output of the codec is a volume payload (43_volume_codec.md R186, R189; 30_encoding.md R82). -/
theorem volumePayload_dbToRegister (h : Int) : volumePayload (dbToRegister h) = true := by
  by_cases neg : h < 0
  · have clamp : 20 ≤ (-(min h Config.dbCeiling)).toNat := by simp only [Config.dbCeiling]; omega
    obtain ⟨j, bound, steps⟩ := magLoop_from_twenty clamp
    rw [volumePayload, dbToRegister, if_pos neg, steps, BitVec.or_comm, onCurve_magSteps _ _ bound, Bool.or_true]
  · have ceiling : min h Config.dbCeiling = -20 := by simp only [Config.dbCeiling]; omega
    rw [dbToRegister, if_neg neg, ceiling]
    decide

theorem outputIndexOf_outputPayload (i : BitVec 4) : outputIndexOf (outputPayload i) = some i := by
  revert i
  decide

theorem selPayload_outputPayload (i : BitVec 4) : selPayload (payloadSel (outputPayload i)) = outputPayload i := by
  revert i
  decide

/-! ### The verdict on a frame of the encoder -/

/-- The sequence octets and the checksum of a wire frame are in order (R71, R75). -/
theorem frameVerdict_wireFrame (a b : Octet) (p : BitVec 16) (v : Octet) (r : CommandRequest) :
    frameVerdict v ((v >>> 1).extractLsb' 0 7) a b p (checksum16 (frameCover v (v >>> 1) a b p)) (some r)
      = .producible v r := by
  simp [frameVerdict, seqOctetsAgree, frameCsumOk, seqhOctet_shift]

/-- A wire frame, its octet 5 in the form the decoder reads. -/
theorem wireFrame_eq_seqhOctet (a b : Octet) (p : BitVec 16) (v : Octet) :
    wireFrame a b p v = frameOctets v (seqhOctet ((v >>> 1).extractLsb' 0 7)) a b p
      (checksum16 (frameCover v (v >>> 1) a b p)) := by
  rw [seqhOctet_shift, wireFrame]

theorem length_wireFrame (a b : Octet) (p : BitVec 16) (v : Octet) : (wireFrame a b p v).length = 142 := by
  simp only [wireFrame, frameOctets, frameCover, List.length_append, List.length_cons, List.length_nil,
    List.length_replicate]

section
variable (v : Octet)

theorem classifyFrame_togglePower (a : Bool) :
    classifyFrame (wireFrame (stateOctet a) 0x01#8 0x0000#16 v) = .producible v (.power a) := by
  rw [wireFrame_eq_seqhOctet, classifyFrame, decodeFrame_cmdTogglePower]
  exact frameVerdict_wireFrame ..

theorem classifyFrame_toggleMute (a : Bool) :
    classifyFrame (wireFrame (stateOctet a) 0x07#8 0x0000#16 v) = .producible v (.mute a) := by
  rw [wireFrame_eq_seqhOctet, classifyFrame, decodeFrame_cmdToggleMute]
  exact frameVerdict_wireFrame ..

theorem classifyFrame_setVolume (h : Int) :
    classifyFrame (wireFrame 0x00#8 0x04#8 (dbToRegister h) v) = .producible v (.volume (dbToRegister h)) := by
  rw [wireFrame_eq_seqhOctet, classifyFrame, decodeFrame_cmdSetVolume]
  show classifySetVolume .. = _
  rw [classifySetVolume, if_pos (volumePayload_dbToRegister h)]
  exact frameVerdict_wireFrame ..

theorem classifyFrame_setOutput (i : BitVec 4) :
    classifyFrame (wireFrame 0x00#8 0x05#8 (outputPayload i) v) = .producible v (.output i) := by
  rw [wireFrame_eq_seqhOctet, classifyFrame, ← selPayload_outputPayload, decodeFrame_cmdSetOutput]
  show classifySetOutput .. = _
  rw [classifySetOutput, selPayload_outputPayload, outputIndexOf_outputPayload]
  exact frameVerdict_wireFrame ..

end

/-- Octet 6 of a toggle command asks for the state that is not the current one (R72). -/
theorem toggled_eq_stateOctet (current : Bool) : (if current then 0x00#8 else 0x01#8) = stateOctet (!current) := by
  cases current <;> rfl

/-- Every frame of a command the encoder builds is one it can have produced (R82). -/
theorem classifyFrame_of_encoderCommand {a b : Octet} {p : BitVec 16} (command : EncoderCommand a b p) (v : Octet) :
    ∃ r, classifyFrame (wireFrame a b p v) = .producible v r := by
  cases command with
  | togglePower powered => exact ⟨_, toggled_eq_stateOctet powered ▸ classifyFrame_togglePower v _⟩
  | toggleMute muted => exact ⟨_, toggled_eq_stateOctet muted ▸ classifyFrame_toggleMute v _⟩
  | setVolume h => exact ⟨_, classifyFrame_setVolume v h.toInt⟩
  | setOutput i => exact ⟨_, classifyFrame_setOutput v i⟩

end Sys2Proof.Machine
end

section
/-! SUPPORT. Which registers an instruction writes (10_state.md R24, R25), and what a step never forgets (R13, R15,
R21). -/

namespace Sys2Proof.Machine

theorem exec_keeps_inputs_and_parameters {i : Instr} {s t : State} (h : exec i s = .next t) :
    t.pending = s.pending ∧ t.config = s.config := by
  obtain ⟨e, -, rfl⟩ | ⟨-, rfl⟩ | ⟨_, _, _, -, -, -, -, rfl⟩ | ⟨-, -, _, _, _, -, rfl⟩ := exec_cases h <;>
    exact ⟨rfl, rfl⟩

/-- R24: only the SEND operations write the counter and `TXF`. -/
theorem exec_keeps_seq_and_txf {i : Instr} {s t : State} (h : exec i s = .next t) (hi : isSend i = false) :
    t.seq = s.seq ∧ t.txf = s.txf := by
  obtain ⟨e, -, rfl⟩ | ⟨-, rfl⟩ | ⟨_, _, _, -, -, -, -, rfl⟩ | ⟨send, -⟩ := exec_cases h
  case inr.inr.inr => exact absurd (send.symm.trans hi) nofun
  all_goals exact ⟨rfl, rfl⟩

theorem exec_keeps_connected {i : Instr} {s t : State} (h : exec i s = .next t) (hd : isDecodeStatus i = false)
    (ht : i ≠ .rxTimeout) : t.connected = s.connected := by
  obtain ⟨e, -, rfl⟩ | ⟨timeout, -⟩ | ⟨_, _, _, rfl, -⟩ | ⟨-, -, _, _, _, -, rfl⟩ := exec_cases h
  · rfl
  · exact absurd timeout ht
  · cases hd
  · rfl

theorem exec_keeps_other_registers {i : Instr} {s t : State} (h : exec i s = .next t)
    (hd : isDecodeStatus i = false) : SameRegisters { s with seq := t.seq, connected := t.connected } t := by
  obtain ⟨e, -, rfl⟩ | ⟨-, rfl⟩ | ⟨_, _, _, rfl, -⟩ | ⟨-, -, _, _, _, -, rfl⟩ := exec_cases h
  case inr.inr.inl => cases hd
  all_goals constructor <;> rfl

/-- Settles O43: the write column of R25's table, a register at a time. -/
theorem onlyTheNamedOperationsWriteARegister : Obligations.OnlyTheNamedOperationsWriteARegister := by
  intro i s t h
  have send_of_change : ¬(t.seq = s.seq ∧ t.txf = s.txf) → isSend i = true := fun changed =>
    Bool.of_not_eq_false (mt (exec_keeps_seq_and_txf h) changed)
  refine ⟨fun seq => send_of_change fun same => seq same.1, fun connected => ?_,
    fun txf => send_of_change fun same => txf same.2, exec_keeps_other_registers h,
    exec_keeps_inputs_and_parameters h⟩
  by_contra other
  obtain ⟨hd, ht⟩ := not_or.mp other
  exact connected (exec_keeps_connected h (Bool.eq_false_of_not_eq_true hd) ht)

/-- The source and the channels known in `s` are known in `t` (R13, R15). -/
def Remembers (s t : State) : Prop :=
  (s.srcValid = true → t.srcValid = true) ∧ ∀ i : Fin 15, s.chPresent[i] = true → t.chPresent[i] = true

theorem remembers_refl (s : State) : Remembers s s := ⟨id, fun _ => id⟩

/-- A commit learns the source and may learn channels; a channel that the frame does not flag stays as it was (R125,
R126). -/
theorem remembers_commitStatus (sender : BitVec 32) (f : StatusFields) (s : State) :
    Remembers s (commitStatus sender f s) := by
  refine ⟨fun _ => rfl, fun i present => ?_⟩
  simp only [commitStatus_chPresent, Fin.getElem_fin, vecOfFn_getElem]
  split
  · rfl
  · exact present

theorem exec_remembers {i : Instr} {s t : State} (h : exec i s = .next t) : Remembers s t := by
  obtain ⟨e, -, rfl⟩ | ⟨-, rfl⟩ | ⟨sender, _, f, -, -, -, -, rfl⟩ | ⟨-, -, _, _, _, -, rfl⟩ := exec_cases h
  case inr.inr.inl => exact remembers_commitStatus sender f s
  all_goals exact remembers_refl s

/-- Settles O44: a step that takes no reset input executes an instruction, or leaves the registers alone. -/
theorem sourceAndChannelsAreNeverForgotten : Obligations.SourceAndChannelsAreNeverForgotten := by
  intro s t no_reset h
  obtain ⟨-, rfl⟩ | ⟨_, hp, -⟩ | ⟨_, rest, _, -, -, run⟩ | ⟨_, _, _, -, -, -, rfl⟩ | ⟨_, _, -, -, rfl⟩ := step_cases h
  case inr.inl => exact absurd (hp ▸ rfl) no_reset
  case inr.inr.inl => exact exec_remembers (s := setPending rest s) run
  all_goals exact remembers_refl _

end Sys2Proof.Machine
end

section
/-! SUPPORT. The legal states: the state after reset is one (10_state.md R26), and every step keeps them (10_state.md
section 5). -/

namespace Sys2Proof.Machine

/-! ### The state after reset -/

theorem reset_name_getElem (j : Fin 31) : State.reset.name[j] = 0x00#8 := vecOfFn_getElem _ _ _

theorem reset_chPresent_getElem (i : Fin 15) : State.reset.chPresent[i] = false := vecOfFn_getElem _ _ _

theorem reset_chName_getElem (i : Fin 15) : State.reset.chName[i] = vecOfFn fun _ => 0x00#8 := vecOfFn_getElem _ _ _

/-- Settles O9: the vectors entry by entry, the other registers by the record that R26 gives. -/
theorem resetRegisterValues : Obligations.ResetRegisterValues :=
  ⟨rfl, rfl, reset_chPresent_getElem, rfl, rfl, reset_name_getElem,
    fun i j => by rw [reset_chName_getElem]; exact vecOfFn_getElem _ _ _, rfl, rfl, rfl, rfl, rfl⟩

/-- Octets 0x00 are well-formed text (30_encoding.md R81). -/
theorem utf8Wf_zeros (n : Nat) : utf8Wf (List.replicate n 0x00#8) = true := by
  induction n with
  | zero => rfl
  | succ n ih => rw [List.replicate_succ, utf8Wf_ascii (by decide), ih]

theorem reset_name_utf8 : utf8Wf State.reset.name.toList = true := by
  have zeros : State.reset.name.toList = List.replicate 31 0x00#8 := rfl
  rw [zeros, utf8Wf_zeros]

theorem reset_channel_utf8 (i : Fin 15) (present : State.reset.chPresent[i] = true) :
    utf8Wf State.reset.chName[i].toList = true :=
  absurd ((reset_chPresent_getElem i).symm.trans present) nofun

/-- Settles O42: nothing is connected, present or sent after reset, and the name is 31 octets 0x00. -/
theorem resetStateIsLegal : Obligations.ResetStateIsLegal where
  connected_has_source := nofun
  seq_multiple_of_four := rfl
  name_utf8 := reset_name_utf8
  channel_utf8 := reset_channel_utf8
  config_legal := ⟨le_refl _, by decide⟩
  txf_wf := wf_reset
  sent_producible := fun _ sent => absurd sent List.not_mem_nil

/-! ### The datagrams of a legal history -/

/-- A datagram of the encoder's, to the command port (R82, R83; 42_command_encoder.md R156). -/
def Producible (d : Datagram) : Prop :=
  d.port = 45455#16 ∧ d.octets.length = 142 ∧ classifyFrame d.octets ≠ .notProducible

theorem producible_wireFrame {a b : Octet} {p : BitVec 16} (command : EncoderCommand a b p) (dst : BitVec 32)
    (v : Octet) : Producible ⟨dst, 45455#16, wireFrame a b p v⟩ := by
  obtain ⟨r, verdict⟩ := classifyFrame_of_encoderCommand command v
  exact ⟨rfl, length_wireFrame a b p v, verdict ▸ nofun⟩

theorem producible_emitted {a b : Octet} {p : BitVec 16} (command : EncoderCommand a b p) {dst : BitVec 32} {n : Nat}
    {v : Octet} {d : Datagram} (hd : d ∈ emitted dst a b p n v) : Producible d := by
  obtain ⟨k, at_k⟩ := List.mem_iff_getElem?.mp hd
  rw [eq_of_mem_emitted dst a b p at_k]
  exact producible_wireFrame command dst _

/-- An event that is no datagram leaves the transmit history. -/
theorem sent_observe {e : Event} (no : ∀ d, e ≠ .emit d) (s : State) : (observe e s).sent = s.sent := by
  cases e with
  | emit d => exact absurd rfl (no d)
  | response _ | report _ => simp [State.sent, datagramOf]

/-! ### Each update of the state keeps the invariant -/

namespace State.Inv

variable {s : State}

theorem setPending (inv : s.Inv) (p : List Input) : (setPending p s).Inv where
  connected_has_source := inv.connected_has_source
  seq_multiple_of_four := inv.seq_multiple_of_four
  name_utf8 := inv.name_utf8
  channel_utf8 := inv.channel_utf8
  config_legal := inv.config_legal
  txf_wf := inv.txf_wf
  sent_producible := inv.sent_producible

theorem observe (inv : s.Inv) {e : Event} (no : ∀ d, e ≠ .emit d) : (observe e s).Inv where
  connected_has_source := inv.connected_has_source
  seq_multiple_of_four := inv.seq_multiple_of_four
  name_utf8 := inv.name_utf8
  channel_utf8 := inv.channel_utf8
  config_legal := inv.config_legal
  txf_wf := inv.txf_wf
  sent_producible := sent_observe no s ▸ inv.sent_producible

theorem respond (inv : s.Inv) (code : RspCode) (value : BitVec 16) : (respond code value s).Inv :=
  inv.observe nofun

theorem disconnect (inv : s.Inv) : (setConnected false s).Inv where
  connected_has_source := nofun
  seq_multiple_of_four := inv.seq_multiple_of_four
  name_utf8 := inv.name_utf8
  channel_utf8 := inv.channel_utf8
  config_legal := inv.config_legal
  txf_wf := inv.txf_wf
  sent_producible := inv.sent_producible

/-- A commit: the checks of R123 have passed the name and the names of the enabled channels; the other channels keep
theirs. -/
theorem commitStatus (inv : s.Inv) (sender : BitVec 32) {f : StatusFields} (texts : firstMalformed f = none) :
    (commitStatus sender f s).Inv where
  connected_has_source := fun _ => rfl
  seq_multiple_of_four := inv.seq_multiple_of_four
  name_utf8 := (firstMalformed_none.mp texts).1
  channel_utf8 := by
    intro i
    simp only [commitStatus_chPresent, commitStatus_chName, Fin.getElem_fin, vecOfFn_getElem]
    split
    · next enabled => exact fun _ => (firstMalformed_none.mp texts).2 i enabled
    · exact inv.channel_utf8 i
  config_legal := inv.config_legal
  txf_wf := inv.txf_wf
  sent_producible := inv.sent_producible

/-- A command sent: the counter is four further, and the four new datagrams are the encoder's. -/
theorem afterSend (inv : s.Inv) {a b : Octet} {p : BitVec 16} (command : EncoderCommand a b p) :
    (afterSend a b p s).Inv where
  connected_has_source := inv.connected_has_source
  seq_multiple_of_four := by
    have four := inv.seq_multiple_of_four
    show (s.seq + 4#8).toNat % 4 = 0
    rw [BitVec.toNat_add]
    simp only [BitVec.toNat_ofNat]
    omega
  name_utf8 := inv.name_utf8
  channel_utf8 := inv.channel_utf8
  config_legal := inv.config_legal
  txf_wf := wf_forgetTxf s
  sent_producible := by
    intro d hd
    rw [sent_of_outputs (s := s) rfl] at hd
    obtain before | new := List.mem_append.mp hd
    · exact inv.sent_producible d before
    · exact producible_emitted command new

/-- The reset input: registers as after reset, a canonical `TXF`, and the history and the parameters as they were. -/
theorem applyReset (inv : s.Inv) : (applyReset s).Inv where
  connected_has_source := nofun
  seq_multiple_of_four := rfl
  name_utf8 := reset_name_utf8
  channel_utf8 := reset_channel_utf8
  config_legal := inv.config_legal
  txf_wf := wf_forgetTxf s
  sent_producible := inv.sent_producible

end State.Inv

/-! ### Every step keeps the invariant -/

theorem exec_keeps_inv {i : Instr} {s t : State} (inv : s.Inv) (h : exec i s = .next t) : t.Inv := by
  obtain ⟨e, no, rfl⟩ | ⟨-, rfl⟩ | ⟨sender, _, f, -, -, -, texts, rfl⟩ | ⟨-, -, a, b, p, command, rfl⟩ := exec_cases h
  · exact inv.observe no
  · exact inv.disconnect.respond _ _
  · exact (inv.commitStatus sender texts).respond _ _
  · exact inv.afterSend command

/-- Settles O41: the invariant along each way a step can go on. -/
theorem everyStepKeepsTheLegalStates : Obligations.EveryStepKeepsTheLegalStates := by
  intro s t inv h
  obtain ⟨-, rfl⟩ | ⟨rest, -, rfl⟩ | ⟨_, rest, _, -, -, run⟩ | ⟨_, rest, _, -, -, -, rfl⟩ | ⟨_, rest, -, -, rfl⟩ :=
    step_cases h
  · exact inv
  · exact (inv.setPending rest).applyReset
  · exact exec_keeps_inv (inv.setPending rest) run
  · exact (inv.setPending rest).observe nofun
  · exact (inv.setPending rest).observe nofun

end Sys2Proof.Machine
end

section
/-! SUPPORT. No operation leaves its buffer, so every instruction completes (20_memory.md R45; 60_exceptions.md R200), and
16-bit accesses are big-endian (20_memory.md R41). -/

namespace Sys2Proof.Machine

/-! ### Every instruction completes -/

theorem exec_send_completes {i : Instr} (h : isSend i = true) (s : State) : ∃ t, exec i s = .next t := by
  obtain ⟨-, run⟩ | ⟨-, _, _, _, -, run⟩ := exec_send_cases h s <;> exact ⟨_, run⟩

theorem exec_decodeStatus_completes (sender : BitVec 32) (rxf : List Octet) (s : State) :
    ∃ t, exec (.decodeStatus sender rxf) s = .next t := by
  obtain ⟨_, run⟩ | ⟨_, -, -, -, run⟩ := exec_decodeStatus_cases sender rxf s <;> exact ⟨_, run⟩

/-- Settles O40: only the SEND operations and DECODE_STATUS access a buffer, and they stay inside it; the others answer
at once. -/
theorem everyInstructionCompletes : Obligations.EveryInstructionCompletes := by
  intro i s
  cases i with
  | sendTogglePower | sendToggleMute | sendSetVolume _ | sendSetOutput _ => exact exec_send_completes rfl s
  | decodeStatus sender rxf => exact exec_decodeStatus_completes sender rxf s
  | crc16 _ | rxTimeout | db2reg _ | reg2db _ | cmdTogglePower _ _ _ _ | cmdToggleMute _ _ _ _
  | cmdSetVolume _ _ _ _ | cmdSetOutput _ _ _ _ => exact ⟨_, rfl⟩

/-! ### 16-bit accesses -/

theorem toNat_hiOctet (v : BitVec 16) : (hiOctet v).toNat = v.toNat / 256 := by
  rw [hiOctet, BitVec.extractLsb'_toNat, Nat.shiftRight_eq_div_pow]
  omega

theorem toNat_loOctet (v : BitVec 16) : (loOctet v).toNat = v.toNat % 256 := by
  rw [loOctet, BitVec.extractLsb'_toNat, Nat.shiftRight_zero]

/-- The value of the big-endian pair `{hi, lo}` (R41). -/
theorem toNat_append_octets (hi lo : Octet) : (hi ++ lo).toNat = 256 * hi.toNat + lo.toNat := by
  rw [BitVec.toNat_append, ← Nat.shiftLeft_add_eq_or_of_lt lo.isLt, Nat.shiftLeft_eq]
  omega

/-- Two octets written at neighbouring offsets, read back: each at its own, and every other offset as before. -/
theorem memGet_memSet_memSet {m : Memory} {a : Nat} (hm : Memory.wf m = true) (ha : a < 142) (hi lo : Octet)
    (x : Nat) :
    memGet (memSet (memSet m a hi) (a + 1) lo) x = if x = a + 1 then lo else if x = a then hi else memGet m x := by
  rw [memGet_memSet_wf (wf_memSet hi ha hm), memGet_memSet_wf hm]

theorem sameRegisters_setTxf (m : Memory) (s : State) : SameRegisters s (setTxf m s) := by
  constructor <;> rfl

/-- What a 16-bit write inside a canonical `TXF` does (R41). -/
theorem txfWrite2_bigEndian {a : Nat} {v : BitVec 16} {s t : State} (hs : Memory.wf s.txf = true)
    (h : txfWrite2 a v s = some t) :
    memGet t.txf a = hiOctet v ∧ memGet t.txf (a + 1) = loOctet v ∧
      (∀ x, x ≠ a → x ≠ a + 1 → memGet t.txf x = memGet s.txf x) ∧ SameRegisters s t := by
  obtain ⟨inside, rfl⟩ := txfWrite2_eq_some.mp h
  have octets := memGet_memSet_memSet hs (Nat.lt_of_succ_lt inside) (hiOctet v) (loOctet v)
  refine ⟨?_, ?_, fun x low high => ?_, sameRegisters_setTxf _ s⟩
  · rw [setTxf_txf, octets, if_neg (Nat.ne_of_lt a.lt_succ_self), if_pos rfl]
  · rw [setTxf_txf, octets, if_pos rfl]
  · rw [setTxf_txf, octets, if_neg high, if_neg low]

/-- Settles O47: the write by what it leaves at each offset, the read by the value of the pair it answers. -/
theorem sixteenBitAccessesAreBigEndian : Obligations.SixteenBitAccessesAreBigEndian := by
  constructor
  · intro a v s canonical inside
    have write := txfWrite2_inside v s inside
    obtain ⟨high, low, others, registers⟩ := txfWrite2_bigEndian canonical write
    exact ⟨_, write, wf_txfWrite2 write canonical, by rw [high, toNat_hiOctet], by rw [low, toNat_loOctet], others,
      registers⟩
  · intro S a inside
    refine ⟨_, bufRead2_inside inside, ?_⟩
    rw [toNat_append_octets, octetAt_inside (Nat.lt_of_succ_lt inside), octetAt_inside inside]

end Sys2Proof.Machine
end

section
/-! SUPPORT. The decoder gives back every encoded instruction, and a request that decodes is its encoding
(30_encoding.md R61 to R63). -/

namespace Sys2Proof

/-! ### What the decoder answers to a request word put together from its fields, by operation code (R62, R63) -/

section
variable (arg : BitVec 16) (data : List PortUnit)

theorem decodeRequest_crc16 :
    decodeRequest (.word (reqWord 0x0#4 arg) :: data) = (operandOctets arg.toNat data).map .crc16 := by
  simp [decodeRequest]

theorem decodeRequest_sendTogglePower :
    decodeRequest (.word (reqWord 0x1#4 arg) :: data) = withoutOperand .sendTogglePower arg data := by
  simp [decodeRequest]

theorem decodeRequest_decodeStatus :
    decodeRequest (.word (reqWord 0x2#4 arg) :: data) = senderAndFrame arg.toNat data := by
  simp [decodeRequest]

theorem decodeRequest_rxTimeout :
    decodeRequest (.word (reqWord 0x3#4 arg) :: data) = withoutOperand .rxTimeout arg data := by
  simp [decodeRequest]

theorem decodeRequest_sendSetVolume :
    decodeRequest (.word (reqWord 0x4#4 arg) :: data) = withoutData (.sendSetVolume arg) data := by
  simp [decodeRequest]

theorem decodeRequest_sendSetOutput :
    decodeRequest (.word (reqWord 0x5#4 arg) :: data) =
      if arg.extractLsb' 4 12 = 0#12 then withoutData (.sendSetOutput (arg.extractLsb' 0 4)) data
      else .error .unusedOperandBits := by
  simp [decodeRequest]

theorem decodeRequest_db2reg :
    decodeRequest (.word (reqWord 0x6#4 arg) :: data) = withoutData (.db2reg arg) data := by
  simp [decodeRequest]

theorem decodeRequest_sendToggleMute :
    decodeRequest (.word (reqWord 0x7#4 arg) :: data) = withoutOperand .sendToggleMute arg data := by
  simp [decodeRequest]

theorem decodeRequest_reg2db :
    decodeRequest (.word (reqWord 0x8#4 arg) :: data) =
      if arg.extractLsb' 8 8 = 0#8 then withoutData (.reg2db (arg.extractLsb' 0 8)) data
      else .error .unusedOperandBits := by
  simp [decodeRequest]

theorem decodeRequest_reservedOpcode {op : BitVec 4} (h : 9 ≤ op.toNat) :
    decodeRequest (.word (reqWord op arg) :: data) = .error .reservedOpcode := by
  simp only [decodeRequest, reqRsv_reqWord, reqOp_reqWord]
  split
  · contradiction
  · split
    case h_10 => rfl
    all_goals omega

theorem decodeRequest_reservedBits {w : BitVec 32} (h : reqRsv w ≠ 0#12) :
    decodeRequest (.word w :: data) = .error .reservedBits := by
  simp [decodeRequest, h]

end

/-- The operation codes: the nine of R62, or a reserved one. -/
theorem opcode_cases (op : BitVec 4) : op = 0x0#4 ∨ op = 0x1#4 ∨ op = 0x2#4 ∨ op = 0x3#4 ∨ op = 0x4#4 ∨ op = 0x5#4 ∨
    op = 0x6#4 ∨ op = 0x7#4 ∨ op = 0x8#4 ∨ 9 ≤ op.toNat := by
  revert op
  decide

/-- Operand data answered with an instruction are octets of the announced number. -/
theorem of_map_operandOctets {f : List Octet → Instr} {n : Nat} {data : List PortUnit} {i : Instr}
    (h : (operandOctets n data).map f = .ok i) : ∃ os, data = os.map .octet ∧ os.length = n ∧ i = f os := by
  cases taken : operandOctets n data with
  | error why => rw [taken] at h; cases h
  | ok os =>
    rw [taken] at h
    obtain ⟨octets, length⟩ := of_operandOctets taken
    exact ⟨os, octets, length, (Except.ok.inj h).symm⟩

/-- The operand data of DECODE_STATUS are the SENDER word and octets of the announced number. -/
theorem of_senderAndFrame {n : Nat} {data : List PortUnit} {i : Instr} (h : senderAndFrame n data = .ok i) :
    ∃ sender os, data = .word sender :: os.map .octet ∧ os.length = n ∧ i = .decodeStatus sender os := by
  cases data with
  | nil => cases h
  | cons first frame =>
    cases first with
    | octet _ => cases h
    | word sender =>
      obtain ⟨os, rfl, length, rfl⟩ := of_map_operandOctets h
      exact ⟨sender, os, rfl, length, rfl⟩

/-! ### From the instruction to the request and back -/

/-- A length that is well-formed is not changed by the 16-bit operand (R63). -/
theorem toNat_lengthOperand {n : Nat} (h : n ≤ Config.maxOperandOctets) : (BitVec.ofNat 16 n).toNat = n := by
  rw [BitVec.toNat_ofNat, Nat.mod_eq_of_lt (by simp only [Config.maxOperandOctets] at h; omega)]

theorem withoutData_nil (i : Instr) : withoutData i [] = .ok i := rfl

theorem withoutOperand_nil (i : Instr) : withoutOperand i 0#16 [] = .ok i := rfl

theorem decode_encodeRequest (op : BitVec 4) (arg : BitVec 16) (data : List PortUnit) :
    decode (encodeRequest op arg data) = decodeRequest (.word (reqWord op arg) :: data) := rfl

theorem decode_encode_crc16 {crcin : List Octet} (h : crcin.length ≤ Config.maxOperandOctets) :
    decode (encode (.crc16 crcin)) = .ok (.crc16 crcin) := by
  rw [encode, decode_encodeRequest, decodeRequest_crc16, toNat_lengthOperand h, operandOctets_map]
  rfl

theorem decode_encode_decodeStatus (sender : BitVec 32) {rxf : List Octet}
    (h : rxf.length ≤ Config.maxOperandOctets) :
    decode (encode (.decodeStatus sender rxf)) = .ok (.decodeStatus sender rxf) := by
  rw [encode, decode_encodeRequest, decodeRequest_decodeStatus, toNat_lengthOperand h, senderAndFrame,
    operandOctets_map]
  rfl

theorem decode_encode_sendSetOutput (i : BitVec 4) :
    decode (encode (.sendSetOutput i)) = .ok (.sendSetOutput i) := by
  rw [encode, decode_encodeRequest, decodeRequest_sendSetOutput, if_pos (extract_append_high 0#12 i),
    extract_append_low 0#12 i, withoutData_nil]

theorem decode_encode_reg2db (v : BitVec 8) : decode (encode (.reg2db v)) = .ok (.reg2db v) := by
  rw [encode, decode_encodeRequest, decodeRequest_reg2db, if_pos (extract_append_high 0#8 v),
    extract_append_low 0#8 v, withoutData_nil]

/-- Settles O1: the requests by what the decoder answers to their operation code, the frames by the row that fits. -/
theorem decodeOfEncodeIsTheInstruction : Obligations.DecodeOfEncodeIsTheInstruction := by
  intro i wf
  cases i with
  | crc16 crcin => exact decode_encode_crc16 (of_decide_eq_true wf)
  | sendTogglePower => exact decodeRequest_sendTogglePower 0#16 []
  | decodeStatus sender rxf => exact decode_encode_decodeStatus sender (of_decide_eq_true wf)
  | rxTimeout => exact decodeRequest_rxTimeout 0#16 []
  | sendSetVolume h => exact decodeRequest_sendSetVolume h []
  | sendSetOutput i => exact decode_encode_sendSetOutput i
  | db2reg h => exact decodeRequest_db2reg h []
  | sendToggleMute => exact decodeRequest_sendToggleMute 0#16 []
  | reg2db v => exact decode_encode_reg2db v
  | cmdTogglePower seq seqh a csum => exact decodeFrame_cmdTogglePower seq seqh csum a
  | cmdToggleMute seq seqh a csum => exact decodeFrame_cmdToggleMute seq seqh csum a
  | cmdSetVolume seq seqh payload csum => exact decodeFrame_cmdSetVolume seq seqh csum payload
  | cmdSetOutput seq seqh sel csum => exact decodeFrame_cmdSetOutput seq seqh csum sel

/-- What encodes a well-formed instruction decodes to it. -/
theorem decode_of_encode {e : Encoded} {i : Instr} (h : encode i = e) (wf : i.wellFormed = true) : decode e = .ok i :=
  h ▸ decodeOfEncodeIsTheInstruction i wf

/-- Settles O3: each sample is the encoding of its instruction. -/
theorem sampleWordsDecode : Obligations.SampleWordsDecode :=
  ⟨decode_of_encode (by decide) rfl, decode_of_encode (by decide) rfl, decode_of_encode (by decide) rfl,
    decode_of_encode (by decide) rfl, decode_of_encode (by decide) rfl, decode_of_encode (by decide) rfl,
    decode_of_encode (by decide) rfl, decode_of_encode (by decide) rfl, decode_of_encode (by decide) rfl,
    decode_of_encode (by decide) rfl⟩

/-! ### From the request to the instruction and back -/

section
variable {arg : BitVec 16} {data : List PortUnit} {i j : Instr}

/-- The request is the encoding of the instruction, which is well-formed. -/
def IsEncodedBy (units : List PortUnit) (i : Instr) : Prop := encode i = .request units ∧ i.wellFormed = true

theorem wellFormed_length {n : Nat} (h : n = arg.toNat) : n ≤ Config.maxOperandOctets :=
  h ▸ Nat.le_of_lt_succ arg.isLt

theorem encodedBy_crc16 (h : (operandOctets arg.toNat data).map .crc16 = .ok i) :
    IsEncodedBy (.word (reqWord 0x0#4 arg) :: data) i := by
  obtain ⟨os, rfl, length, rfl⟩ := of_map_operandOctets h
  exact ⟨by rw [encode, encodeRequest, length, BitVec.ofNat_toNat, BitVec.setWidth_eq],
    decide_eq_true (wellFormed_length length)⟩

theorem encodedBy_decodeStatus (h : senderAndFrame arg.toNat data = .ok i) :
    IsEncodedBy (.word (reqWord 0x2#4 arg) :: data) i := by
  obtain ⟨sender, os, rfl, length, rfl⟩ := of_senderAndFrame h
  exact ⟨by rw [encode, encodeRequest, length, BitVec.ofNat_toNat, BitVec.setWidth_eq],
    decide_eq_true (wellFormed_length length)⟩

theorem encodedBy_withoutData {w : BitVec 32} (hj : IsEncodedBy [.word w] j) (h : withoutData j data = .ok i) :
    IsEncodedBy (.word w :: data) i := by
  obtain ⟨rfl, rfl⟩ := of_withoutData h
  exact hj

theorem encodedBy_withoutOperand {op : BitVec 4} (hj : IsEncodedBy [.word (reqWord op 0#16)] j)
    (h : withoutOperand j arg data = .ok i) : IsEncodedBy (.word (reqWord op arg) :: data) i := by
  obtain ⟨rfl, rfl, rfl⟩ := of_withoutOperand h
  exact hj

/-- An operand whose unused high bits are zero is its low field, widened again (R63). -/
theorem zero_append_low {n m : Nat} {x : BitVec (n + m)} (h : x.extractLsb' m n = 0#n) :
    0#n ++ x.extractLsb' 0 m = x := by
  rw [← h, append_extract]

theorem encodedBy_sendSetOutput (h : decodeRequest (.word (reqWord 0x5#4 arg) :: data) = .ok i) :
    IsEncodedBy (.word (reqWord 0x5#4 arg) :: data) i := by
  rw [decodeRequest_sendSetOutput] at h
  split at h
  · next unused =>
    refine encodedBy_withoutData ⟨?_, rfl⟩ h
    rw [encode, encodeRequest, zero_append_low (n := 12) (m := 4) unused]
  · cases h

theorem encodedBy_reg2db (h : decodeRequest (.word (reqWord 0x8#4 arg) :: data) = .ok i) :
    IsEncodedBy (.word (reqWord 0x8#4 arg) :: data) i := by
  rw [decodeRequest_reg2db] at h
  split at h
  · next unused =>
    refine encodedBy_withoutData ⟨?_, rfl⟩ h
    rw [encode, encodeRequest, zero_append_low (n := 8) (m := 8) unused]
  · cases h

end

/-- A request that decodes, by its operation code. -/
theorem encodedBy_of_decodeRequest_reqWord {op : BitVec 4} {arg : BitVec 16} {data : List PortUnit} {i : Instr}
    (h : decodeRequest (.word (reqWord op arg) :: data) = .ok i) :
    IsEncodedBy (.word (reqWord op arg) :: data) i := by
  obtain rfl | rfl | rfl | rfl | rfl | rfl | rfl | rfl | rfl | reserved := opcode_cases op
  · exact encodedBy_crc16 (decodeRequest_crc16 arg data ▸ h)
  · exact encodedBy_withoutOperand ⟨rfl, rfl⟩ (decodeRequest_sendTogglePower arg data ▸ h)
  · exact encodedBy_decodeStatus (decodeRequest_decodeStatus arg data ▸ h)
  · exact encodedBy_withoutOperand ⟨rfl, rfl⟩ (decodeRequest_rxTimeout arg data ▸ h)
  · exact encodedBy_withoutData ⟨rfl, rfl⟩ (decodeRequest_sendSetVolume arg data ▸ h)
  · exact encodedBy_sendSetOutput h
  · exact encodedBy_withoutData ⟨rfl, rfl⟩ (decodeRequest_db2reg arg data ▸ h)
  · exact encodedBy_withoutOperand ⟨rfl, rfl⟩ (decodeRequest_sendToggleMute arg data ▸ h)
  · exact encodedBy_reg2db h
  · rw [decodeRequest_reservedOpcode arg data reserved] at h
    cases h

theorem encodedBy_of_decodeRequest {units : List PortUnit} {i : Instr} (h : decodeRequest units = .ok i) :
    IsEncodedBy units i := by
  match units with
  | [] | .octet _ :: _ => cases h
  | .word w :: data =>
    by_cases rsv : reqRsv w = 0#12
    · rw [eq_reqWord rsv] at h ⊢
      exact encodedBy_of_decodeRequest_reqWord h
    · rw [decodeRequest_reservedBits data rsv] at h
      cases h

end Sys2Proof
end

section
/-! SUPPORT. A command frame that decodes is the encoder's (30_encoding.md R70 to R76), the classifier accepts none but
the encoder's (R82), and the emitted frame octet by octet. -/

namespace Sys2Proof

/-! ### A frame that a row of the table fits -/

/-- Octet 5 with bit 7 zero is its other bits, widened again (R71). -/
theorem seqhOctet_extract : ∀ {o : Octet}, o &&& 0x80#8 = 0x00#8 → seqhOctet (o.extractLsb' 0 7) = o := by
  decide

/-- Octet 6 of a toggle frame is its bit 0 (R72). -/
theorem stateOctet_getLsbD : ∀ {o : Octet}, o &&& 0xFE#8 = 0x00#8 → stateOctet (o.getLsbD 0) = o := by
  decide

theorem selPayload_hi : ∀ {o : Octet}, o &&& 0xFE#8 = 0x40#8 → 0x20#7 ++ o.extractLsb' 0 1 = o := by
  decide

theorem selPayload_lo : ∀ {o : Octet}, o &&& 0x0F#8 = 0x00#8 → o.extractLsb' 4 4 ++ 0#4 = o := by
  decide

/-- The payload of an output frame that the row fits is its five free bits (R74). -/
theorem selPayload_payloadSel {p : BitVec 16} (hi : hiOctet p &&& 0xFE#8 = 0x40#8)
    (lo : loOctet p &&& 0x0F#8 = 0x00#8) : selPayload (payloadSel p) = p := by
  unfold selPayload payloadSel
  rw [extract_append_high ((hiOctet p).extractLsb' 0 1), extract_append_low ((hiOctet p).extractLsb' 0 1),
    selPayload_hi hi, selPayload_lo lo, hiOctet_append_loOctet]

/-- The four CMDFRAME rows of the opcode table. -/
def frameRows : List FrameRow := [rowTogglePower, rowToggleMute, rowSetVolume, rowSetOutput]

/-- The octets that all four rows fix. -/
theorem fixed_octets_of_fits {r : FrameRow} (hr : r ∈ frameRows)
    {o0 o1 o2 o3 o4 o5 o6 o7 o8 o9 o10 o11 o12 o13 : Octet}
    (fits : r.fits [o0, o1, o2, o3, o4, o5, o6, o7, o8, o9, o10, o11, o12, o13] = true) :
    o0 = 0x44#8 ∧ o1 = 0x72#8 ∧ o2 = 0x00#8 ∧ o4 = 0x00#8 ∧ o5 &&& 0x80#8 = 0x00#8 ∧ o10 = 0x00#8 ∧ o11 = 0x00#8 := by
  have shape : ∃ m6 m7 m8 m9 p7 p8,
      r.mask = [0xFF#8, 0xFF#8, 0xFF#8, 0x00#8, 0xFF#8, 0x80#8, m6, m7, m8, m9, 0xFF#8, 0xFF#8, 0x00#8, 0x00#8] ∧
      r.pattern = [0x44#8, 0x72#8, 0x00#8, 0x00#8, 0x00#8, 0x00#8, 0x00#8, p7, p8, 0x00#8, 0x00#8, 0x00#8, 0x00#8,
        0x00#8] := by
    simp only [frameRows, List.mem_cons, List.not_mem_nil, or_false] at hr
    obtain rfl | rfl | rfl | rfl := hr <;> exact ⟨_, _, _, _, _, _, rfl, rfl⟩
  obtain ⟨m6, m7, m8, m9, p7, p8, mask, pattern⟩ := shape
  simp only [FrameRow.fits, mask, pattern, octetsMatch, octet_and_ones, Bool.and_eq_true, beq_iff_eq] at fits
  obtain ⟨h0, h1, h2, -, h4, h5, -, -, -, -, h10, h11, -⟩ := fits
  exact ⟨h0, h1, h2, h4, h5, h10, h11⟩

/-- A frame that decodes is 14 octets that a row fits and 128 zeros. -/
theorem fits_of_decodeFrame {os : List Octet} {i : Instr} (h : decodeFrame os = .ok i) :
    ∃ r ∈ frameRows, ∃ o0 o1 o2 o3 o4 o5 o6 o7 o8 o9 o10 o11 o12 o13,
      os = [o0, o1, o2, o3, o4, o5, o6, o7, o8, o9, o10, o11, o12, o13] ++ List.replicate 128 0x00#8 ∧
      r.fits [o0, o1, o2, o3, o4, o5, o6, o7, o8, o9, o10, o11, o12, o13] = true := by
  unfold decodeFrame at h
  split at h
  · cases h
  · next tail =>
    split at h
    · next o0 o1 o2 o3 o4 o5 o6 o7 o8 o9 o10 o11 o12 o13 head =>
      have parts : os = [o0, o1, o2, o3, o4, o5, o6, o7, o8, o9, o10, o11, o12, o13] ++ List.replicate 128 0x00#8 := by
        rw [← head, ← not_not.mp tail, List.take_append_drop]
      have fit : ∃ r ∈ frameRows, r.fits [o0, o1, o2, o3, o4, o5, o6, o7, o8, o9, o10, o11, o12, o13] = true := by
        by_contra noFit
        simp only [frameRows, List.mem_cons, List.not_mem_nil, or_false, exists_eq_or_imp, exists_eq_left, not_or]
          at noFit
        simp [noFit] at h
      obtain ⟨r, hr, fits⟩ := fit
      exact ⟨r, hr, _, _, _, _, _, _, _, _, _, _, _, _, _, _, parts, fits⟩
    · cases h

/-- A frame that decodes is of the form the encoder writes. -/
theorem eq_frameOctets_of_decodeFrame {os : List Octet} {i : Instr} (h : decodeFrame os = .ok i) :
    ∃ seq seqh a b p csum, os = frameOctets seq (seqhOctet seqh) a b p csum := by
  obtain ⟨r, hr, o0, o1, o2, o3, o4, o5, o6, o7, o8, o9, o10, o11, o12, o13, rfl, fits⟩ := fits_of_decodeFrame h
  obtain ⟨rfl, rfl, rfl, rfl, h5, rfl, rfl⟩ := fixed_octets_of_fits hr fits
  refine ⟨o3, o5.extractLsb' 0 7, o6, o7, o8 ++ o9, o12 ++ o13, ?_⟩
  rw [frameOctets, frameCover, seqhOctet_extract h5]
  simp only [hiOctet_append, loOctet_append]
  rfl

/-- What O2 says of one frame: the row that fits leaves no octet open but its operands. -/
theorem encode_of_decodeFrame {os : List Octet} {i : Instr} (h : decodeFrame os = .ok i) :
    encode i = .frame os ∧ i.wellFormed = true := by
  obtain ⟨seq, seqh, a, b, p, csum, rfl⟩ := eq_frameOctets_of_decodeFrame h
  have payload_zero : hiOctet p = 0x00#8 ∧ loOctet p = 0x00#8 → p = 0x0000#16 := fun ⟨hi, lo⟩ => by
    rw [← hiOctet_append_loOctet p, hi, lo]; rfl
  simp only [decodeFrame_frameOctets, extract_seqhOctet] at h
  split at h
  · next fits =>
    obtain ⟨ha, rfl, zero⟩ := (rowTogglePower_fits ..).mp fits
    cases h
    exact ⟨by rw [encode, stateOctet_getLsbD ha, payload_zero zero], rfl⟩
  split at h
  · next fits =>
    obtain ⟨ha, rfl, zero⟩ := (rowToggleMute_fits ..).mp fits
    cases h
    exact ⟨by rw [encode, stateOctet_getLsbD ha, payload_zero zero], rfl⟩
  split at h
  · next fits =>
    obtain ⟨rfl, rfl⟩ := (rowSetVolume_fits ..).mp fits
    cases h
    exact ⟨rfl, rfl⟩
  split at h
  · next fits =>
    obtain ⟨rfl, rfl, hi, lo⟩ := (rowSetOutput_fits ..).mp fits
    cases h
    exact ⟨by rw [encode, ← payloadSel, selPayload_payloadSel hi lo], rfl⟩
  · cases h

/-- Settles O2: a request by its operation code, a frame by the row that fits. -/
theorem decodedTransactionIsItsEncoding : Obligations.DecodedTransactionIsItsEncoding := by
  intro e i h
  cases e with
  | request units => exact encodedBy_of_decodeRequest h
  | frame os => exact encode_of_decodeFrame h

end Sys2Proof

namespace Sys2Proof.Machine

/-! ### The payloads the classifier accepts are the encoder's -/

/-- A value on the curve is one the loop of R185 passes through, under the sign bit. -/
theorem of_onCurve {p : BitVec 16} {n k acc : Nat} (h : onCurve p n k acc = true) :
    ∃ j ≤ n, p = 0x8000#16 ||| BitVec.ofNat 16 (magSteps j k acc) := by
  induction n generalizing k acc with
  | zero => exact ⟨0, le_refl _, by simpa only [onCurve, magSteps, beq_iff_eq] using h⟩
  | succ n ih =>
    rw [onCurve, Bool.or_eq_true, beq_iff_eq] at h
    obtain here | later := h
    · exact ⟨0, Nat.zero_le _, here⟩
    · obtain ⟨j, bound, value⟩ := ih later
      exact ⟨j + 1, Nat.succ_le_succ bound, value⟩

theorem magLoop_twenty_add {j : Nat} (h : j ≤ 236) : magLoop (20 + j) = magSteps j 21 (magLoop 20) := by
  rw [magLoop, if_neg (by omega), show min (20 + j) 256 - 1 = 19 + j by omega, magSteps_add]
  rfl

/-- The register of a level at the ceiling or below it (R186). -/
theorem dbToRegister_neg {K : Nat} (h : 20 ≤ K) :
    dbToRegister (-(K : Int)) = 0x8000#16 ||| BitVec.ofNat 16 (magLoop K) := by
  have clamp : (-(min (-(K : Int)) Config.dbCeiling)).toNat = K := by simp only [Config.dbCeiling]; omega
  rw [dbToRegister, clamp, if_pos (by omega), BitVec.or_comm]

/-- Every volume payload is an output of the codec (R82; 43_volume_codec.md R189). -/
theorem exists_level_of_volumePayload {p : BitVec 16} (h : volumePayload p = true) :
    ∃ level : BitVec 16, p = dbToRegister level.toInt := by
  rw [volumePayload, Bool.or_eq_true, beq_iff_eq] at h
  obtain rfl | curve := h
  · exact ⟨0#16, by decide⟩
  · obtain ⟨j, bound, rfl⟩ := of_onCurve curve
    refine ⟨BitVec.ofInt 16 (-((20 + j : Nat) : Int)), ?_⟩
    rw [BitVec.toInt_ofInt, Int.bmod_eq_of_le (by omega) (by omega), dbToRegister_neg (by omega),
      magLoop_twenty_add bound]

theorem outputPayload_of_outputIndexOf {p : BitVec 16} {i : BitVec 4} (h : outputIndexOf p = some i) :
    outputPayload i = p := by
  unfold outputIndexOf at h
  have found := List.find?_some h
  exact beq_iff_eq.mp found

/-! ### The frames the classifier accepts are the encoder's -/

/-- A frame of the encoder's: the wire frame of a command that it builds. -/
def IsEncoderFrame (os : List Octet) : Prop :=
  ∃ (a b : Octet) (p : BitVec 16) (v : BitVec 8), EncoderCommand a b p ∧ os = wireFrame a b p v

/-- A frame whose verdict is not "not producible" has a request, and is the wire frame of its own octets. -/
theorem eq_wireFrame_of_verdict {seq a b : Octet} {seqh : BitVec 7} {p csum : BitVec 16}
    {request : Option CommandRequest} (h : frameVerdict seq seqh a b p csum request ≠ .notProducible) :
    request ≠ none ∧ frameOctets seq (seqhOctet seqh) a b p csum = wireFrame a b p seq := by
  unfold frameVerdict at h
  split at h
  · exact absurd rfl h
  · split at h
    · next checks =>
      simp only [seqOctetsAgree, frameCsumOk, Bool.and_eq_true, beq_iff_eq] at checks
      obtain ⟨octet5, checksum⟩ := checks
      rw [octet5] at checksum
      exact ⟨nofun, by rw [wireFrame, checksum, octet5]⟩
    · exact absurd rfl h

theorem encoderCommand_stateOctet (a : Bool) : EncoderCommand (stateOctet a) 0x01#8 0x0000#16 ∧
    EncoderCommand (stateOctet a) 0x07#8 0x0000#16 := by
  have toggled : stateOctet a = if !a then 0x00#8 else 0x01#8 := by rw [toggled_eq_stateOctet, Bool.not_not]
  exact ⟨toggled ▸ .togglePower (!a), toggled ▸ .toggleMute (!a)⟩

theorem encoderCommand_of_classifySetVolume {seq : Octet} {seqh : BitVec 7} {p csum : BitVec 16}
    (h : classifySetVolume seq seqh p csum ≠ .notProducible) : EncoderCommand 0x00#8 0x04#8 p := by
  have accepted : volumePayload p = true := by
    by_contra no
    exact (eq_wireFrame_of_verdict h).1 (if_neg no)
  obtain ⟨level, rfl⟩ := exists_level_of_volumePayload accepted
  exact .setVolume level

theorem encoderCommand_of_classifySetOutput {seq : Octet} {seqh : BitVec 7} {sel : BitVec 5} {csum : BitVec 16}
    (h : classifySetOutput seq seqh sel csum ≠ .notProducible) :
    EncoderCommand 0x00#8 0x05#8 (selPayload sel) := by
  have request := (eq_wireFrame_of_verdict h).1
  cases index : outputIndexOf (selPayload sel) with
  | none => exact absurd (index ▸ rfl) request
  | some i => exact outputPayload_of_outputIndexOf index ▸ .setOutput i

theorem isEncoderFrame_of_classifyFrame {os : List Octet} (h : classifyFrame os ≠ .notProducible) :
    IsEncoderFrame os := by
  unfold classifyFrame at h
  split at h
  · next seq seqh a csum decoded =>
    cases (encode_of_decodeFrame decoded).1
    exact ⟨_, _, _, seq, (encoderCommand_stateOctet a).1, (eq_wireFrame_of_verdict h).2⟩
  · next seq seqh a csum decoded =>
    cases (encode_of_decodeFrame decoded).1
    exact ⟨_, _, _, seq, (encoderCommand_stateOctet a).2, (eq_wireFrame_of_verdict h).2⟩
  · next seq seqh p csum decoded =>
    cases (encode_of_decodeFrame decoded).1
    exact ⟨_, _, _, seq, encoderCommand_of_classifySetVolume h, (eq_wireFrame_of_verdict h).2⟩
  · next seq seqh sel csum decoded =>
    cases (encode_of_decodeFrame decoded).1
    exact ⟨_, _, _, seq, encoderCommand_of_classifySetOutput h, (eq_wireFrame_of_verdict h).2⟩
  · exact absurd rfl h

/-- Settles O39: what the classifier accepts has been decoded and is its own encoding; the encoder's frames are
classified as what they are. -/
theorem classifierAcceptsExactlyTheEncodersFrames : Obligations.ClassifierAcceptsExactlyTheEncodersFrames := by
  refine fun os => ⟨isEncoderFrame_of_classifyFrame, ?_⟩
  rintro ⟨a, b, p, v, command, rfl⟩
  obtain ⟨r, verdict⟩ := classifyFrame_of_encoderCommand command v
  rw [verdict]
  exact nofun

/-! ### The emitted frame octet by octet -/

/-- The 128 octets after the checksum field are zero (R76). -/
theorem octetAt_wireFrame_tail (a b : Octet) (p : BitVec 16) (v : BitVec 8) {x : Nat} (h : 14 ≤ x) :
    octetAt (wireFrame a b p v) x = 0x00#8 := by
  obtain ⟨k, rfl⟩ := Nat.exists_eq_add_of_le' h
  show octetAt (List.replicate 128 0x00#8) k = 0x00#8
  rw [octetAt, List.getD_eq_getElem?_getD]
  exact List.getElem?_getD_replicate_default_eq ..

/-- Settles O34: offsets 0 to 13 are written out in the frame; the checksum field is the checksum of the cover before
it. -/
theorem wireFrameOctetByOctet : Obligations.WireFrameOctetByOctet := by
  intro a b p v
  refine ⟨length_wireFrame a b p v, rfl, rfl, rfl, ?_, rfl, rfl, hiOctet_append_loOctet p,
    hiOctet_append_loOctet _, ?_⟩
  · show (v >>> 1).toNat = v.toNat / 2
    rw [BitVec.toNat_ushiftRight, Nat.shiftRight_eq_div_pow, pow_one]
  · rintro x (rfl | rfl | rfl | rfl | ⟨tail, -⟩)
    case inr.inr.inr.inr => exact octetAt_wireFrame_tail a b p v tail
    all_goals rfl

end Sys2Proof.Machine
end

section
/-! SUPPORT. Which request words are illegal, and what a step does with one (30_encoding.md R63, R77; 60_exceptions.md
R206). -/

namespace Sys2Proof

/-- The decoder's answer is an illegal request (R77). -/
def answersIllegal : Except DecodeError Instr → Bool
  | .ok _ => false
  | .error why => why.illegal

/-! ### The operand data make no request illegal -/

theorem answersIllegal_operandOctets (f : List Octet → Instr) (n : Nat) (data : List PortUnit) :
    answersIllegal ((operandOctets n data).map f) = false := by
  cases h : operandOctets n data with
  | ok os => rfl
  | error why => obtain rfl | rfl | rfl := operandOctets_error h <;> rfl

theorem answersIllegal_senderAndFrame (n : Nat) : ∀ data, answersIllegal (senderAndFrame n data) = false
  | [] => rfl
  | .octet _ :: _ => rfl
  | .word _ :: frame => answersIllegal_operandOctets _ n frame

theorem answersIllegal_withoutData (i : Instr) (data : List PortUnit) :
    answersIllegal (withoutData i data) = false := by
  cases h : withoutData i data with
  | ok j => rfl
  | error why => cases withoutData_error h; rfl

theorem answersIllegal_withoutOperand (i : Instr) (arg : BitVec 16) (data : List PortUnit) :
    answersIllegal (withoutOperand i arg data) = true ↔ arg.toNat ≠ 0 := by
  have zero : arg.toNat = 0 ↔ arg = 0#16 := (BitVec.toNat_eq (x := arg) (y := 0#16)).symm
  unfold withoutOperand
  split
  · next h => simp [answersIllegal_withoutData, h]
  · next h => exact ⟨fun _ => mt zero.mp h, fun _ => rfl⟩

/-- The high bits of an operand are zero exactly where its value fits the low ones. -/
theorem extract_high_eq_zero_iff {n m : Nat} (x : BitVec (n + m)) : x.extractLsb' m n = 0#n ↔ x.toNat < 2 ^ m := by
  have bound := x.isLt
  rw [pow_add, Nat.mul_comm] at bound
  have high : x.toNat / 2 ^ m < 2 ^ n := Nat.div_lt_of_lt_mul bound
  rw [← BitVec.toNat_inj, BitVec.extractLsb'_toNat, Nat.shiftRight_eq_div_pow, Nat.mod_eq_of_lt high,
    BitVec.toNat_ofNat, Nat.zero_mod, Nat.div_eq_zero_iff_lt (Nat.two_pow_pos m)]

theorem answersIllegal_unused {n m : Nat} (x : BitVec (n + m)) (i : Instr) (data : List PortUnit) :
    answersIllegal (if x.extractLsb' m n = 0#n then withoutData i data else .error .unusedOperandBits) = true ↔
      2 ^ m ≤ x.toNat := by
  split
  · next unused => simp [answersIllegal_withoutData, (extract_high_eq_zero_iff x).mp unused]
  · next used => exact ⟨fun _ => Nat.le_of_not_lt (mt (extract_high_eq_zero_iff x).mpr used), fun _ => rfl⟩

/-! ### The illegal request words -/

/-- R77 on the values of `OP` and `ARG`, `RSV` being zero. -/
def IllegalFields (op arg : Nat) : Prop :=
  9 ≤ op ∨ ((op = 1 ∨ op = 3 ∨ op = 7) ∧ arg ≠ 0) ∨ (op = 5 ∧ 16 ≤ arg) ∨ (op = 8 ∧ 256 ≤ arg)

theorem answersIllegal_reqWord (op : BitVec 4) (arg : BitVec 16) (data : List PortUnit) :
    answersIllegal (decodeRequest (.word (reqWord op arg) :: data)) = true ↔ IllegalFields op.toNat arg.toNat := by
  obtain rfl | rfl | rfl | rfl | rfl | rfl | rfl | rfl | rfl | reserved := opcode_cases op
  · simp [decodeRequest_crc16, answersIllegal_operandOctets, IllegalFields]
  · simp [decodeRequest_sendTogglePower, answersIllegal_withoutOperand, IllegalFields]
  · simp [decodeRequest_decodeStatus, answersIllegal_senderAndFrame, IllegalFields]
  · simp [decodeRequest_rxTimeout, answersIllegal_withoutOperand, IllegalFields]
  · simp [decodeRequest_sendSetVolume, answersIllegal_withoutData, IllegalFields]
  · rw [decodeRequest_sendSetOutput, answersIllegal_unused (n := 12) (m := 4)]
    simp [IllegalFields]
  · simp [decodeRequest_db2reg, answersIllegal_withoutData, IllegalFields]
  · simp [decodeRequest_sendToggleMute, answersIllegal_withoutOperand, IllegalFields]
  · rw [decodeRequest_reg2db, answersIllegal_unused (n := 8) (m := 8)]
    simp [IllegalFields]
  · rw [decodeRequest_reservedOpcode arg data reserved]
    exact ⟨fun _ => .inl reserved, fun _ => rfl⟩

theorem toNat_reqOp (w : BitVec 32) : (reqOp w).toNat = (w >>> 28).toNat := by
  rw [reqOp, BitVec.extractLsb'_toNat, BitVec.toNat_ushiftRight, Nat.shiftRight_eq_div_pow]
  omega

theorem toNat_reqArg (w : BitVec 32) : (reqArg w).toNat = w.toNat % 65536 := by
  rw [reqArg, BitVec.extractLsb'_toNat, Nat.shiftRight_zero]

/-- Which request words are illegal, whatever operand data come with them (R77). -/
theorem answersIllegal_iff (w : BitVec 32) (data : List PortUnit) :
    answersIllegal (decodeRequest (.word w :: data)) = true ↔
      reqRsv w ≠ 0#12 ∨ IllegalFields (w >>> 28).toNat (w.toNat % 65536) := by
  by_cases rsv : reqRsv w = 0#12
  · rw [← toNat_reqOp, ← toNat_reqArg, ← answersIllegal_reqWord _ _ data, ← eq_reqWord rsv]
    exact ⟨.inr, fun h => h.resolve_left (not_not.mpr rsv)⟩
  · rw [decodeRequest_reservedBits data rsv]
    exact ⟨fun _ => .inl rsv, fun _ => rfl⟩

end Sys2Proof

namespace Sys2Proof.Machine

/-- A step on an illegal request takes IllegalOp (R206). -/
theorem step_of_illegal {s : State} {e : Encoded} {rest : List Input} (hp : s.pending = .present e :: rest)
    (h : answersIllegal (decode e) = true) : step s = .next (raise .illegalOp (setPending rest s)) := by
  cases hd : decode e with
  | ok i => rw [hd] at h; cases h
  | error why =>
    rw [hd] at h
    simp only [step, hp, hd, takeUndecodable]
    exact if_pos h

/-- Settles O4: a word is answered as illegal exactly where R77 says so. -/
theorem illegalRequestsAreAnsweredIllegalOp : Obligations.IllegalRequestsAreAnsweredIllegalOp := by
  intro s w data rest hp op arg illegal
  have decoded : answersIllegal (decode (.request (.word w :: data))) = true ↔ illegal :=
    (answersIllegal_iff w data).trans or_left_comm
  refine ⟨fun h => step_of_illegal hp (decoded.mpr h), fun legal why hd => ?_⟩
  rw [← decoded, hd] at legal
  exact Bool.eq_false_of_not_eq_true legal

end Sys2Proof.Machine
end

section
/-! SUPPORT. The UTF-8 check is the table of 30_encoding.md R81. -/

namespace Sys2Proof.Machine

variable {b0 b1 b2 b3 : Octet} {t : List Octet}

/-! ### The sequences of two, three and four octets as the rows of the table -/

theorem utf8Two_iff : utf8Two b0 b1 = true ↔
    (0xC2#8 ≤ b0 ∧ b0 ≤ 0xDF#8) ∧ 0x80#8 ≤ b1 ∧ b1 ≤ 0xBF#8 := by
  simp only [utf8Two, Bool.and_eq_true, octetIn_iff]

theorem utf8Three_iff : utf8Three b0 b1 b2 = true ↔
    (((b0 = 0xE0#8 ∧ 0xA0#8 ≤ b1 ∧ b1 ≤ 0xBF#8 ∨ (0xE1#8 ≤ b0 ∧ b0 ≤ 0xEC#8) ∧ 0x80#8 ≤ b1 ∧ b1 ≤ 0xBF#8) ∨
      b0 = 0xED#8 ∧ 0x80#8 ≤ b1 ∧ b1 ≤ 0x9F#8) ∨ (0xEE#8 ≤ b0 ∧ b0 ≤ 0xEF#8) ∧ 0x80#8 ≤ b1 ∧ b1 ≤ 0xBF#8) ∧
    0x80#8 ≤ b2 ∧ b2 ≤ 0xBF#8 := by
  simp only [utf8Three, Bool.and_eq_true, Bool.or_eq_true, beq_iff_eq, octetIn_iff]

theorem utf8Four_iff : utf8Four b0 b1 b2 b3 = true ↔
    (((b0 = 0xF0#8 ∧ 0x90#8 ≤ b1 ∧ b1 ≤ 0xBF#8 ∨ (0xF1#8 ≤ b0 ∧ b0 ≤ 0xF3#8) ∧ 0x80#8 ≤ b1 ∧ b1 ≤ 0xBF#8) ∨
      b0 = 0xF4#8 ∧ 0x80#8 ≤ b1 ∧ b1 ≤ 0x8F#8) ∧ 0x80#8 ≤ b2 ∧ b2 ≤ 0xBF#8) ∧ 0x80#8 ≤ b3 ∧ b3 ≤ 0xBF#8 := by
  simp only [utf8Four, Bool.and_eq_true, Bool.or_eq_true, beq_iff_eq, octetIn_iff]

/-! ### What passes the check is text -/

theorem utf8Text_two (h : utf8Two b0 b1 = true) (text : Utf8Text t) : Utf8Text (b0 :: b1 :: t) := by
  obtain ⟨⟨l0, u0⟩, l1, u1⟩ := utf8Two_iff.mp h
  exact .row2 l0 u0 l1 u1 text

theorem utf8Text_three (h : utf8Three b0 b1 b2 = true) (text : Utf8Text t) : Utf8Text (b0 :: b1 :: b2 :: t) := by
  obtain ⟨((⟨rfl, l1, u1⟩ | ⟨⟨l0, u0⟩, l1, u1⟩) | ⟨rfl, l1, u1⟩) | ⟨⟨l0, u0⟩, l1, u1⟩, l2, u2⟩ := utf8Three_iff.mp h
  · exact .row3 l1 u1 l2 u2 text
  · exact .row4 l0 u0 l1 u1 l2 u2 text
  · exact .row5 l1 u1 l2 u2 text
  · exact .row6 l0 u0 l1 u1 l2 u2 text

theorem utf8Text_four (h : utf8Four b0 b1 b2 b3 = true) (text : Utf8Text t) :
    Utf8Text (b0 :: b1 :: b2 :: b3 :: t) := by
  obtain ⟨⟨(⟨rfl, l1, u1⟩ | ⟨⟨l0, u0⟩, l1, u1⟩) | ⟨rfl, l1, u1⟩, l2, u2⟩, l3, u3⟩ := utf8Four_iff.mp h
  · exact .row7 l1 u1 l2 u2 l3 u3 text
  · exact .row8 l0 u0 l1 u1 l2 u2 l3 u3 text
  · exact .row9 l1 u1 l2 u2 l3 u3 text

/-- The check takes one sequence at a time, and none is cut short by the end. -/
theorem utf8Text_of_utf8Wf {octets : List Octet} (h : utf8Wf octets = true) : Utf8Text octets := by
  induction octets using utf8Wf.induct with
  | case1 => exact .nil
  | case2 b0 t ascii ih => exact .row1 (BitVec.le_def.mpr (Nat.zero_le _)) ascii (ih (utf8Wf_ascii ascii ▸ h))
  | case4 b0 not1 b1 t le2 ih =>
    rw [utf8Wf_two not1 le2, Bool.and_eq_true] at h
    obtain ⟨sequence, rest⟩ := h
    exact utf8Text_two sequence (ih rest)
  | case6 b0 not1 b1 not2 b2 t le3 ih =>
    rw [utf8Wf_three not1 not2 le3, Bool.and_eq_true] at h
    obtain ⟨sequence, rest⟩ := h
    exact utf8Text_three sequence (ih rest)
  | case8 b0 not1 b1 not2 b2 not3 b3 t ih =>
    rw [utf8Wf_four not1 not2 not3, Bool.and_eq_true] at h
    obtain ⟨sequence, rest⟩ := h
    exact utf8Text_four sequence (ih rest)
  | case3 b0 not1 => simp [utf8Wf, not1] at h
  | case5 b0 not1 b1 not2 => simp [utf8Wf, not1, not2] at h
  | case7 b0 not1 b1 not2 b2 not3 => simp [utf8Wf, not1, not2, not3] at h

/-! ### Text passes the check: the range of the first octet tells the length -/

theorem not_le_of_range {lo hi b : Octet} (lower : lo ≤ b) (apart : hi < lo) : ¬ b ≤ hi := by
  bv_omega

theorem utf8Wf_of_two (h : utf8Two b0 b1 = true) (text : utf8Wf t = true) : utf8Wf (b0 :: b1 :: t) = true := by
  obtain ⟨⟨l0, u0⟩, -⟩ := utf8Two_iff.mp h
  rw [utf8Wf_two (not_le_of_range l0 (by decide)) u0, h, text, Bool.and_self]

theorem utf8Wf_of_three (h : utf8Three b0 b1 b2 = true) (text : utf8Wf t = true) :
    utf8Wf (b0 :: b1 :: b2 :: t) = true := by
  have range : 0xE0#8 ≤ b0 ∧ b0 ≤ 0xEF#8 := by
    obtain ⟨((⟨rfl, -⟩ | ⟨⟨l0, u0⟩, -⟩) | ⟨rfl, -⟩) | ⟨⟨l0, u0⟩, -⟩, -⟩ := utf8Three_iff.mp h <;> bv_omega
  obtain ⟨l0, u0⟩ := range
  rw [utf8Wf_three (not_le_of_range l0 (by decide)) (not_le_of_range l0 (by decide)) u0, h, text, Bool.and_self]

theorem utf8Wf_of_four (h : utf8Four b0 b1 b2 b3 = true) (text : utf8Wf t = true) :
    utf8Wf (b0 :: b1 :: b2 :: b3 :: t) = true := by
  have l0 : 0xF0#8 ≤ b0 := by
    obtain ⟨⟨(⟨rfl, -⟩ | ⟨⟨l0, u0⟩, -⟩) | ⟨rfl, -⟩, -⟩, -⟩ := utf8Four_iff.mp h <;> bv_omega
  rw [utf8Wf_four (not_le_of_range l0 (by decide)) (not_le_of_range l0 (by decide)) (not_le_of_range l0 (by decide)), h,
    text, Bool.and_self]

theorem utf8Wf_of_utf8Text {octets : List Octet} (text : Utf8Text octets) : utf8Wf octets = true := by
  induction text with
  | nil => rfl
  | row1 _ ascii _ ih => exact (utf8Wf_ascii ascii).trans ih
  | row2 l0 u0 l1 u1 _ ih => exact utf8Wf_of_two (utf8Two_iff.mpr ⟨⟨l0, u0⟩, l1, u1⟩) ih
  | row3 l1 u1 l2 u2 _ ih =>
    exact utf8Wf_of_three (utf8Three_iff.mpr ⟨.inl (.inl (.inl ⟨rfl, l1, u1⟩)), l2, u2⟩) ih
  | row4 l0 u0 l1 u1 l2 u2 _ ih =>
    exact utf8Wf_of_three (utf8Three_iff.mpr ⟨.inl (.inl (.inr ⟨⟨l0, u0⟩, l1, u1⟩)), l2, u2⟩) ih
  | row5 l1 u1 l2 u2 _ ih =>
    exact utf8Wf_of_three (utf8Three_iff.mpr ⟨.inl (.inr ⟨rfl, l1, u1⟩), l2, u2⟩) ih
  | row6 l0 u0 l1 u1 l2 u2 _ ih =>
    exact utf8Wf_of_three (utf8Three_iff.mpr ⟨.inr ⟨⟨l0, u0⟩, l1, u1⟩, l2, u2⟩) ih
  | row7 l1 u1 l2 u2 l3 u3 _ ih =>
    exact utf8Wf_of_four (utf8Four_iff.mpr ⟨⟨.inl (.inl ⟨rfl, l1, u1⟩), l2, u2⟩, l3, u3⟩) ih
  | row8 l0 u0 l1 u1 l2 u2 l3 u3 _ ih =>
    exact utf8Wf_of_four (utf8Four_iff.mpr ⟨⟨.inl (.inr ⟨⟨l0, u0⟩, l1, u1⟩), l2, u2⟩, l3, u3⟩) ih
  | row9 l1 u1 l2 u2 l3 u3 _ ih =>
    exact utf8Wf_of_four (utf8Four_iff.mpr ⟨⟨.inr ⟨rfl, l1, u1⟩, l2, u2⟩, l3, u3⟩) ih

/-- Settles O28: sequence by sequence, along the check in one direction and along the table's rows in the other. -/
theorem utf8CheckIsTheTable : Obligations.Utf8CheckIsTheTable :=
  fun _ => ⟨utf8Text_of_utf8Wf, utf8Wf_of_utf8Text⟩

end Sys2Proof.Machine
end

section
/-! SUPPORT. What the frame layout does not describe reaches no register but `CSUM_OK` (30_encoding.md R69). -/

namespace Sys2Proof.Machine

/-! ### The flags and fields read no other bit of their octets (30_encoding.md R67) -/

theorem flagPowered_eq_mask : ∀ b : Octet, flagPowered b = flagPowered (b &&& 0x80#8) := by
  decide

theorem flagMuted_eq_mask : ∀ b : Octet, flagMuted b = flagMuted (b &&& 0x3E#8) := by
  decide

theorem fieldActive_eq_mask : ∀ b : Octet, fieldActive b = fieldActive (b &&& 0x3E#8) := by
  decide

/-! ### Two frames that agree where the layout describes them -/

/-- Two lists of octets agree wherever the layout describes a register other than `CSUM_OK` (R69). -/
structure AgreeWhereDescribed (rxf rxf' : List Octet) : Prop where
  length : rxf'.length = rxf.length
  octets : ∀ a, (19 ≤ a ∧ a ≤ 49) ∨ (52 ≤ a ∧ a ≤ 306) ∨ a = 310 → octetAt rxf' a = octetAt rxf a
  power : octetAt rxf' 307 &&& 0x80#8 = octetAt rxf 307 &&& 0x80#8
  muteAndChannel : octetAt rxf' 308 &&& 0x3E#8 = octetAt rxf 308 &&& 0x3E#8

/-- What a commit takes from the fields of two frames, but for the checksum, agrees. -/
structure SameSnapshot (f f' : StatusFields) : Prop where
  name : f'.name = f.name
  records : f'.records = f.records
  powered : flagPowered f'.b307 = flagPowered f.b307
  muted : flagMuted f'.b308 = flagMuted f.b308
  activeCh : fieldActive f'.b308 = fieldActive f.b308
  volRaw : f'.b310 = f.b310

theorem sameSnapshot_of_readsFrame {rxf rxf' : List Octet} {f f' : StatusFields}
    (agree : AgreeWhereDescribed rxf rxf') (reads : ReadsFrame rxf f) (reads' : ReadsFrame rxf' f') :
    SameSnapshot f f' where
  name := Vector.ext fun j hj => by
    rw [reads.name j hj, reads'.name j hj, agree.octets (19 + j) (by omega)]
  records := Vector.ext fun k hk => by
    rw [reads.records k hk, reads'.records k hk, agree.octets (52 + k) (by omega)]
  powered := by
    rw [flagPowered_eq_mask, flagPowered_eq_mask f.b307, reads.b307, reads'.b307, agree.power]
  muted := by
    rw [flagMuted_eq_mask, flagMuted_eq_mask f.b308, reads.b308, reads'.b308, agree.muteAndChannel]
  activeCh := by
    rw [fieldActive_eq_mask, fieldActive_eq_mask f.b308, reads.b308, reads'.b308, agree.muteAndChannel]
  volRaw := by rw [reads.b310, reads'.b310, agree.octets 310 (by omega)]

theorem channelEnabled_congr {f f' : StatusFields} (h : f'.records = f.records) (i : Fin 15) :
    channelEnabled f' i = channelEnabled f i := by
  simp only [channelEnabled, h]

theorem channelName_congr {f f' : StatusFields} (h : f'.records = f.records) (i : Fin 15) :
    channelName f' i = channelName f i := by
  simp only [channelName, h]

/-- The text checks read the name and the channel records only (R123). -/
theorem firstMalformed_congr {f f' : StatusFields} (same : SameSnapshot f f') :
    firstMalformed f' = firstMalformed f := by
  simp only [firstMalformed, same.name, channelEnabled_congr same.records, channelName_congr same.records]

/-- Two commits of the same snapshot differ in `CSUM_OK`, and so in their responses, alone. -/
theorem sameRegisters_commitStatus {f f' : StatusFields} (same : SameSnapshot f f') (sender : BitVec 32) (s : State)
    (code code' : RspCode) :
    SameRegisters { respond code 0#16 (commitStatus sender f s) with csumOk := flagCsumOk f'.cover f'.transmitted }
      (respond code' 0#16 (commitStatus sender f' s)) where
  seq := rfl
  connected := rfl
  srcValid := rfl
  srcAddr := rfl
  name := same.name
  chPresent := by simp only [respond_chPresent, commitStatus_chPresent, channelEnabled_congr same.records]
  chName := by
    simp only [respond_chName, commitStatus_chName, channelEnabled_congr same.records,
      channelName_congr same.records]
  powered := same.powered
  muted := same.muted
  activeCh := same.activeCh
  volRaw := same.volRaw
  csumOk := rfl

/-- Settles O26: two such frames fail the same check, or are committed with the same snapshot. -/
theorem undescribedOctetsReachNoRegister : Obligations.UndescribedOctetsReachNoRegister := by
  intro sender rxf rxf' s t t' length octets power muteAndChannel run run'
  have agree : AgreeWhereDescribed rxf rxf' := ⟨length, octets, power, muteAndChannel⟩
  rw [exec] at run run'
  by_cases admitted : LengthAdmitted s rxf
  · have admitted' : LengthAdmitted s rxf' := by rwa [LengthAdmitted, length]
    obtain ⟨f, reads, decode⟩ := execDecodeStatus_admitted sender admitted
    obtain ⟨f', reads', decode'⟩ := execDecodeStatus_admitted sender admitted'
    have same := sameSnapshot_of_readsFrame agree reads reads'
    rw [firstMalformed_congr same] at decode'
    cases verdict : firstMalformed f with
    | some field =>
      rw [verdict] at decode decode'
      cases decode.symm.trans run
      cases decode'.symm.trans run'
      constructor <;> rfl
    | none =>
      rw [verdict] at decode decode'
      cases decode.symm.trans run
      cases decode'.symm.trans run'
      exact sameRegisters_commitStatus same sender s _ _
  · have rejected' : ¬ LengthAdmitted s rxf' := by rwa [LengthAdmitted, length]
    cases (execDecodeStatus_length admitted).symm.trans run
    cases (execDecodeStatus_length rejected').symm.trans run'
    constructor <;> rfl

end Sys2Proof.Machine
end

section
/-! SUPPORT. The checksum register round by round: as numbers it is the spec's pseudocode, and no two registers become the
same one (40_checksum.md R102 to R109). -/

namespace Sys2Proof.Machine

/-! ### One round, and several of them -/

theorem crcRound_bit_zero (crc : BitVec 16) : (crcRound crc)[0] = crc[15] := by
  unfold crcRound
  split
  · next top => simp [top, show Config.crcPoly[0] = true from rfl]
  · next top => simp [top]

/-- Bit 0 of the polynomial is 1, so that bit 0 after the round says which bit was shifted out. -/
theorem crcRound_injective : Function.Injective crcRound := by
  intro x y same
  have top : x[15] = y[15] := by rw [← crcRound_bit_zero, same, crcRound_bit_zero]
  have shifted : x <<< 1 = y <<< 1 := by
    unfold crcRound at same
    rw [top] at same
    split at same
    · exact (BitVec.xor_left_inj _).mp same
    · exact same
  apply BitVec.eq_of_getElem_eq
  intro i hi
  by_cases last : i = 15
  · subst last
    exact top
  · have below : i + 1 < 16 := by omega
    simpa [below, hi] using congrArg (·.getLsbD (i + 1)) shifted

theorem crcRound_of_lt {crc : BitVec 16} (h : crc.toNat < 2 ^ 15) : crcRound crc = crc <<< 1 := by
  have top : crc[15] = false := by
    rw [← BitVec.getLsbD_eq_getElem, ← BitVec.testBit_toNat, Nat.testBit_lt_two_pow h]
  simp [crcRound, top]

/-- The pseudocode's mask drops the bit that a 16-bit shift drops (R103). -/
theorem toNat_crcRound (crc : BitVec 16) : (crcRound crc).toNat = natRound crc.toNat := by
  have mask (n : Nat) : n &&& 0xFFFF = n % 2 ^ 16 := Nat.and_two_pow_sub_one_eq_mod n 16
  rw [natRound, BitVec.testBit_toNat, BitVec.getLsbD_eq_getElem (by decide), crcRound]
  split
  · rw [Nat.and_xor_distrib_right, mask, BitVec.toNat_xor, BitVec.toNat_shiftLeft]
    rfl
  · rw [mask, BitVec.toNat_shiftLeft]

theorem crcRounds_eq_iterate (n : Nat) (crc : BitVec 16) : crcRounds n crc = crcRound^[n] crc := by
  induction n generalizing crc with
  | zero => rfl
  | succ n ih => rw [crcRounds, ih, Function.iterate_succ_apply]

theorem crcRounds_succ (n : Nat) (crc : BitVec 16) : crcRounds (n + 1) crc = crcRound (crcRounds n crc) := by
  rw [crcRounds_eq_iterate, crcRounds_eq_iterate, Function.iterate_succ_apply']

theorem crcRounds_injective (n : Nat) : Function.Injective (crcRounds n) := by
  rw [funext (crcRounds_eq_iterate n)]
  exact crcRound_injective.iterate n

theorem toNat_crcRounds (n : Nat) (crc : BitVec 16) : (crcRounds n crc).toNat = Nat.repeat natRound n crc.toNat := by
  induction n with
  | zero => rfl
  | succ n ih => rw [crcRounds_succ, toNat_crcRound, ih, Nat.repeat]

/-- As long as no bit is shifted out, the rounds only shift. -/
theorem crcRounds_of_lt {n : Nat} {crc : BitVec 16} (h : crc.toNat * 2 ^ n < 2 ^ 16) :
    crcRounds n crc = crc <<< n := by
  induction n generalizing crc with
  | zero => simp [crcRounds]
  | succ n ih =>
    have double : crc.toNat * 2 * 2 ^ n < 2 ^ 16 := by rwa [Nat.mul_assoc, ← Nat.pow_succ']
    have small : crc.toNat * 2 < 2 ^ 16 := (Nat.le_mul_of_pos_right _ (Nat.two_pow_pos n)).trans_lt double
    have shifted : (crc <<< 1).toNat = crc.toNat * 2 := by
      rw [BitVec.toNat_shiftLeft, Nat.shiftLeft_eq, Nat.pow_one, Nat.mod_eq_of_lt small]
    rw [crcRounds, crcRound_of_lt (by omega), ih (shifted ▸ double), ← BitVec.shiftLeft_add, Nat.add_comm]

/-! ### One octet -/

/-- The octet enters in the high half of the register (R102). -/
theorem crcByte_eq (crc : BitVec 16) (b : Octet) : crcByte crc b = crcRounds 8 (crc ^^^ (b ++ 0#8)) := by
  have high : b.setWidth 16 <<< 8 = b ++ 0#8 := by
    apply BitVec.eq_of_toNat_eq
    rw [toNat_append_octets, BitVec.toNat_shiftLeft, BitVec.toNat_setWidth, Nat.shiftLeft_eq, BitVec.toNat_ofNat]
    omega
  rw [crcByte, high]

theorem toNat_crcByte (crc : BitVec 16) (b : Octet) : (crcByte crc b).toNat = natByte crc.toNat b.toNat := by
  rw [crcByte_eq, toNat_crcRounds, BitVec.toNat_xor, BitVec.toNat_append, natByte]
  simp

theorem crcRounds_lowOctet (lo : Octet) : crcRounds 8 (0#8 ++ lo) = lo ++ 0#8 := by
  have value : (0#8 ++ lo).toNat = lo.toNat := by simp [toNat_append_octets]
  rw [crcRounds_of_lt (by omega)]
  apply BitVec.eq_of_toNat_eq
  rw [toNat_append_octets, BitVec.toNat_shiftLeft, value, Nat.shiftLeft_eq, BitVec.toNat_ofNat]
  omega

/-- Where the octet equals the high half of the register, what is left is the low half, moved up, and only there. -/
theorem crcByte_eq_append_zero_iff (crc : BitVec 16) (hi lo : Octet) :
    crcByte crc hi = lo ++ 0#8 ↔ crc = hi ++ lo := by
  have cancel : 0#8 ++ lo = (hi ++ lo) ^^^ (hi ++ 0#8) := by
    rw [BitVec.xor_append, BitVec.xor_self, BitVec.xor_zero]
  rw [crcByte_eq, ← crcRounds_lowOctet lo, (crcRounds_injective 8).eq_iff, cancel, BitVec.xor_left_inj]

/-! ### The three statements on the Checksum Unit -/

/-- Settles O12: the register and the pseudocode's number agree round by round, and so octet by octet. -/
theorem checksumIsThePseudocode : Obligations.ChecksumIsThePseudocode := by
  intro d
  cases d with
  | nil => rfl
  | cons b rest =>
    rw [checksum16_of_ne_nil (List.cons_ne_nil b rest), crcFrom_eq_foldl, natChecksum, if_neg (by simp), List.foldl_map]
    exact (List.foldl_hom BitVec.toNat fun crc b => (toNat_crcByte crc b).symm).symm

/-- Settles O13: the second octet brings the register to 0 exactly where it is the high half of what the first one leaves
and the low half is 0, and the first one leaves such a register exactly where the two octets are the one before it. -/
theorem residueIsZeroExactlyAfterTheChecksum : Obligations.ResidueIsZeroExactlyAfterTheChecksum := by
  intro m hi lo nonempty
  have residue : checksum16 (m ++ [hi, lo]) = crcByte (crcByte (checksum16 m) hi) lo := by
    rw [checksum16_of_ne_nil (by simp), checksum16_of_ne_nil nonempty, crcFrom_append]
    simp only [crcFrom_cons, crcFrom_nil]
  calc checksum16 (m ++ [hi, lo]) = 0#8 ++ 0#8
    _ ↔ crcByte (checksum16 m) hi = lo ++ 0#8 := by rw [residue, crcByte_eq_append_zero_iff]
    _ ↔ checksum16 m = hi ++ lo := crcByte_eq_append_zero_iff _ hi lo
    _ ↔ hi ++ lo = checksum16 m := eq_comm

/-- The request word of CRC16 is the number of its octets (30_encoding.md R61 to R63). -/
theorem reqWord_zero_length {n : Nat} (h : n ≤ 65535) : reqWord 0x0#4 (BitVec.ofNat 16 n) = BitVec.ofNat 32 n := by
  apply BitVec.eq_of_toNat_eq
  rw [reqWord, BitVec.toNat_append, toNat_lengthOperand h, BitVec.toNat_ofNat, Nat.mod_eq_of_lt (by omega)]
  simp

theorem exec_crc16 (crcin : List Octet) (s : State) :
    exec (.crc16 crcin) s = .next (respond .ok (checksum16 crcin) s) := rfl

theorem rspWord_ok (value : BitVec 16) : rspWord .ok value = 0x0000#16 ++ value := rfl

/-- Settles O11: the encoding by its request word, the answer by the one response it appends. -/
theorem crc16AnswersTheChecksum : Obligations.Crc16AnswersTheChecksum := by
  intro crcin
  constructor
  · intro bound
    rw [encode, encodeRequest, reqWord_zero_length bound]
  · intro s
    rw [exec_crc16, respond, rspWord_ok]
    rfl

end Sys2Proof.Machine
end

section
/-! SUPPORT. No single changed octet leaves the checksum as it was (40_checksum.md R102 to R106;
41_status_decoder.md R137). -/

namespace Sys2Proof.Machine

theorem crcByte_left_injective (b : Octet) : Function.Injective (crcByte · b) := fun x y same => by
  simp only [crcByte_eq] at same
  exact (BitVec.xor_left_inj _).mp (crcRounds_injective 8 same)

theorem crcByte_right_injective (crc : BitVec 16) : Function.Injective (crcByte crc) := fun b c same => by
  rw [crcByte_eq, crcByte_eq] at same
  have entered : b ++ 0#8 = c ++ 0#8 := (BitVec.xor_right_inj _).mp (crcRounds_injective 8 same)
  rw [← hiOctet_append b 0#8, entered, hiOctet_append]

/-- The same octets keep two different registers different. -/
theorem crcFrom_injective (l : List Octet) : Function.Injective (crcFrom · l) := by
  induction l with
  | nil => exact Function.injective_id
  | cons b l ih =>
    simp only [crcFrom_cons]
    exact ih.comp (crcByte_left_injective b)

/-- The registers differ from the changed octet on. -/
theorem crcFrom_set_ne {l : List Octet} {j : Nat} (inside : j < l.length) {v : Octet} (changed : v ≠ l[j])
    (crc : BitVec 16) : crcFrom crc (l.set j v) ≠ crcFrom crc l := by
  induction l generalizing j crc with
  | nil => cases inside
  | cons b l ih =>
    cases j with
    | zero =>
      rw [List.set_cons_zero, crcFrom_cons, crcFrom_cons]
      exact (crcFrom_injective l).ne ((crcByte_right_injective crc).ne changed)
    | succ j =>
      rw [List.set_cons_succ, crcFrom_cons, crcFrom_cons]
      exact ih (Nat.lt_of_succ_lt_succ inside) changed _

theorem checksum16_set_ne {l : List Octet} {j : Nat} (inside : j < l.length) {v : Octet} (changed : v ≠ l[j]) :
    checksum16 (l.set j v) ≠ checksum16 l := by
  have nonempty : l ≠ [] := List.ne_nil_of_length_pos (Nat.zero_lt_of_lt inside)
  rw [checksum16_of_ne_nil nonempty, checksum16_of_ne_nil (by simpa using nonempty)]
  exact crcFrom_set_ne inside changed _

/-! ### A covered octet of a status frame -/

section
variable {rxf : List Octet} {j : Nat} (covered : j < rxf.length - 2)
include covered

theorem computedOf_set_ne {v : Octet} (changed : v ≠ octetAt rxf j) : computedOf (rxf.set j v) ≠ computedOf rxf := by
  have inside : j < (rxf.take (rxf.length - 2)).length := by
    rw [List.length_take]
    omega
  rw [computedOf, computedOf, List.length_set, List.take_set]
  refine checksum16_set_ne inside ?_
  rwa [List.getElem_take, ← octetAt_inside (by omega)]

theorem octetAt_set_ne {a : Nat} (after : rxf.length - 2 ≤ a) (v : Octet) :
    octetAt (rxf.set j v) a = octetAt rxf a := by
  simp only [octetAt, List.getD_eq_getElem?_getD]
  rw [List.getElem?_set_ne (by omega)]

theorem transmittedIn_set (v : Octet) : transmittedIn (rxf.set j v) = transmittedIn rxf := by
  rw [transmittedIn, List.length_set, octetAt_set_ne covered (by omega), octetAt_set_ne covered (by omega)]

/-- A frame whose checksum holds does not keep it when a covered octet changes. -/
theorem computedOf_ne_transmittedIn_set {v : Octet} (changed : v ≠ octetAt rxf j)
    (passes : computedOf rxf = transmittedIn rxf) : computedOf (rxf.set j v) ≠ transmittedIn (rxf.set j v) := by
  rw [transmittedIn_set covered, ← passes]
  exact computedOf_set_ne covered changed

end

end Sys2Proof.Machine
end

section
/-! SUPPORT. The outcome of DECODE_STATUS and of RX_TIMEOUT: what a commit writes, which response says so, and what the
outcome depends on (41_status_decoder.md R120 to R137). -/

namespace Sys2Proof.Machine

/-! ### Response words (30_encoding.md R64) -/

/-- `CODE` has the place of a request's `OP` (R61, R64). -/
theorem reqOp_rspWord (code : RspCode) (value : BitVec 16) : reqOp (rspWord code value) = rspCodeBits code :=
  reqOp_reqWord _ value

theorem code_of_rspWord_eq_zero {code : RspCode} {value : BitVec 16} (h : rspWord code value = 0x00000000#32) :
    code = .ok := by
  have bits : rspCodeBits code = 0x0#4 := by rw [← reqOp_rspWord code value, h]; rfl
  cases code
  case ok => rfl
  all_goals cases bits

/-- One response appended is the other. -/
theorem response_append_inj {es : List Event} {w w' : BitVec 32} (h : es ++ [.response w] = es ++ [.response w']) :
    w = w' :=
  Event.response.inj (List.singleton_inj.mp (List.append_cancel_left h))

/-! ### What a commit writes (R124 to R132) -/

section
variable {rxf : List Octet} {f : StatusFields}

/-- The frame leaves no choice in what is read of it. -/
theorem ReadsFrame.unique {f' : StatusFields} (r : ReadsFrame rxf f) (r' : ReadsFrame rxf f') : f' = f := by
  have name : f'.name = f.name := Vector.ext fun j hj => by rw [r.name j hj, r'.name j hj]
  have records : f'.records = f.records := Vector.ext fun k hk => by rw [r.records k hk, r'.records k hk]
  rw [StatusFields.mk.injEq]
  exact ⟨name, records, r'.b307.trans r.b307.symm, r'.b308.trans r.b308.symm, r'.b310.trans r.b310.symm,
    r'.transmitted.trans r.transmitted.symm, r'.cover.trans r.cover.symm⟩

theorem ReadsFrame.csumOk (r : ReadsFrame rxf f) :
    flagCsumOk f.cover f.transmitted = decide (computedOf rxf = transmittedIn rxf) := by
  rw [flagCsumOk, r.cover, r.transmitted]
  rfl

/-- The response of a commit says whether the checksums agree (R132). -/
theorem ReadsFrame.commitWord (r : ReadsFrame rxf f) : rspWord (commitCode f) 0#16 =
    if computedOf rxf = transmittedIn rxf then 0x00000000#32 else 0x10000000#32 := by
  simp only [commitCode, r.csumOk, decide_eq_true_eq]
  split <;> rfl

theorem ReadsFrame.texts (r : ReadsFrame rxf f) (len : 512 ≤ rxf.length) :
    firstMalformed f = none ↔ TextsWellFormed rxf := by
  simp only [firstMalformed_none, r.nameList len, r.enabled, r.channelNameList len, TextsWellFormed]

/-- The entry of an enabled channel is the frame's (R126). -/
theorem commitStatus_entry_enabled (sender : BitVec 32) (s : State) {i : Fin 15} (h : channelEnabled f i = true) :
    (commitStatus sender f s).chPresent[i] = true ∧ (commitStatus sender f s).chName[i] = channelName f i := by
  simp [h]

/-- "For each `i` with `en[i]` false: `CH_PRESENT[i]` and `CH_NAME[i]` keep their values" (R126). -/
theorem commitStatus_entry_disabled (sender : BitVec 32) (s : State) {i : Fin 15} (h : ¬ channelEnabled f i = true) :
    (commitStatus sender f s).chPresent[i] = s.chPresent[i] ∧ (commitStatus sender f s).chName[i] = s.chName[i] := by
  simp [h]

/-- Bits 5:2 as a number (R129). -/
theorem toNat_fieldActive (b : Octet) : (fieldActive b).toNat = b.toNat / 4 % 16 := by
  rw [fieldActive, BitVec.extractLsb'_toNat, Nat.shiftRight_eq_div_pow]

end

/-! ### The outcome is fixed by the operands and the parameters (R136) -/

/-- One abort for every state with these parameters, or one commit for each. -/
theorem exec_decodeStatus_uniform (sender : BitVec 32) (rxf : List Octet) (config : Config.Params) :
    (∃ r, ∀ s : State, s.config = config → exec (.decodeStatus sender rxf) s = .next (raise r s)) ∨
    ∃ f, ReadsFrame rxf f ∧ ∀ s : State, s.config = config →
      exec (.decodeStatus sender rxf) s = .next (respond (commitCode f) 0#16 (commitStatus sender f s)) := by
  by_cases len : 512 ≤ rxf.length ∧ rxf.length ≤ config.statusBufOctets
  · obtain ⟨f, -, reads⟩ := readStatus_spec len.1
    have admitted (s : State) (hs : s.config = config) : LengthAdmitted s rxf := by rwa [LengthAdmitted, hs]
    cases verdict : firstMalformed f with
    | some field =>
      refine .inl ⟨.malformedPayload field, fun s hs => ?_⟩
      obtain ⟨f', reads', run⟩ := execDecodeStatus_admitted sender (admitted s hs)
      rw [exec, run, reads.unique reads', verdict]
    | none =>
      refine .inr ⟨f, reads, fun s hs => ?_⟩
      obtain ⟨f', reads', run⟩ := execDecodeStatus_admitted sender (admitted s hs)
      rw [exec, run, reads.unique reads', verdict]
  · exact .inl ⟨_, fun s hs => execDecodeStatus_length (by rwa [LengthAdmitted, hs])⟩

theorem sameRegisters_raise (r : Raised) (s : State) : SameRegisters s (raise r s) := by
  constructor <;> rfl

/-- Settles O25: the two states are both aborted alike or both committed with the same fields. -/
theorem decoderReadsNoRegister : Obligations.DecoderReadsNoRegister := by
  intro sender rxf s s' t t' config run run'
  obtain ⟨r, abort⟩ | ⟨f, reads, commit⟩ := exec_decodeStatus_uniform sender rxf s.config
  · cases (abort s rfl).symm.trans run
    cases (abort s' config).symm.trans run'
    exact ⟨⟨_, raise_outputs .., raise_outputs ..⟩, .inl ⟨sameRegisters_raise r s, sameRegisters_raise r s'⟩⟩
  · cases (commit s rfl).symm.trans run
    cases (commit s' config).symm.trans run'
    refine ⟨⟨_, respond_outputs .., respond_outputs ..⟩,
      .inr ⟨rfl, rfl, rfl, rfl, rfl, rfl, rfl, rfl, rfl, fun i flagged => ?_⟩⟩
    obtain ⟨present, name⟩ := commitStatus_entry_enabled sender s ((reads.enabled i).mpr flagged)
    obtain ⟨present', name'⟩ := commitStatus_entry_enabled sender s' ((reads.enabled i).mpr flagged)
    exact ⟨present'.trans present.symm, name'.trans name.symm⟩

/-! ### The commit, and the response that says that the frame passed -/

theorem exec_decodeStatus_commits (sender : BitVec 32) {rxf : List Octet} {s : State} (len : LengthAdmitted s rxf)
    (texts : TextsWellFormed rxf) : ∃ f, ReadsFrame rxf f ∧
      exec (.decodeStatus sender rxf) s = .next (respond (commitCode f) 0#16 (commitStatus sender f s)) := by
  obtain ⟨f, reads, run⟩ := execDecodeStatus_admitted sender len
  exact ⟨f, reads, by rw [exec, run, (reads.texts len.1).mpr texts]⟩

/-- `CSUM_OK` after a commit (R131). -/
theorem csumOk_of_commit {sender : BitVec 32} {rxf : List Octet} {s t : State} (len : LengthAdmitted s rxf)
    (texts : TextsWellFormed rxf) (h : exec (.decodeStatus sender rxf) s = .next t) :
    t.csumOk = decide (computedOf rxf = transmittedIn rxf) := by
  obtain ⟨f, reads, run⟩ := exec_decodeStatus_commits sender len texts
  cases run.symm.trans h
  exact reads.csumOk

/-- OK is answered to a frame whose checksums agree only: an abort has a code of its own (R132, R207). -/
theorem passes_of_answers_ok {sender : BitVec 32} {rxf : List Octet} {s t : State}
    (h : exec (.decodeStatus sender rxf) s = .next t) (ok : t.outputs = s.outputs ++ [.response 0x00000000#32]) :
    computedOf rxf = transmittedIn rxf := by
  obtain ⟨r, run⟩ | ⟨f, reads, -, -, run⟩ := exec_decodeStatus_cases sender rxf s <;> cases run.symm.trans h
  · have code := code_of_rspWord_eq_zero (response_append_inj ((raise_outputs r s).symm.trans ok))
    cases r <;> cases code
  · have word := response_append_inj ((respond_outputs ..).symm.trans ok)
    rw [reads.commitWord] at word
    by_contra differ
    rw [if_neg differ] at word
    cases word

/-- Settles O24: what answers OK has its checksums agree, and a changed octet of the cover makes them differ. -/
theorem oneChangedOctetDoesNotPass : Obligations.OneChangedOctetDoesNotPass := by
  intro sender rxf s len
  refine ⟨fun t texts run => by rw [csumOk_of_commit len texts run, decide_eq_true_eq], ?_⟩
  intro j v t u covered changed run ok run'
  have differ := computedOf_ne_transmittedIn_set covered changed (passes_of_answers_ok run ok)
  have len' : LengthAdmitted s (rxf.set j v) := by rwa [LengthAdmitted, List.length_set]
  exact ⟨fun ok' => differ (passes_of_answers_ok run' ok'),
    fun texts => by rw [csumOk_of_commit len' texts run', decide_eq_false differ]⟩

/-! ### The encodings, and the two statements on the whole state -/

/-- A request word as a number: `OP` above 28 bits that only `ARG` fills (30_encoding.md R61). -/
theorem toNat_reqWord (op : BitVec 4) (arg : BitVec 16) :
    (reqWord op arg).toNat = 0x10000000 * op.toNat + arg.toNat := by
  rw [reqWord, BitVec.toNat_append, ← Nat.shiftLeft_add_eq_or_of_lt arg.isLt, BitVec.toNat_append, Nat.shiftLeft_eq,
    Nat.shiftLeft_eq, BitVec.toNat_zero, Nat.or_zero]
  omega

/-- The request word of DECODE_STATUS (30_encoding.md R61 to R63). -/
theorem reqWord_two_length {n : Nat} (h : n ≤ 65535) :
    reqWord 0x2#4 (BitVec.ofNat 16 n) = BitVec.ofNat 32 (0x20000000 + n) := by
  apply BitVec.eq_of_toNat_eq
  rw [toNat_reqWord, toNat_lengthOperand h, BitVec.toNat_ofNat, BitVec.toNat_ofNat]
  omega

/-- Settles O23: the encoding by its request word, the commit by what is read of the frame, a field at a time. -/
theorem commitWritesTheSnapshot : Obligations.CommitWritesTheSnapshot := by
  intro sender rxf
  refine ⟨fun bound => by rw [encode, encodeRequest, reqWord_two_length bound], fun s len texts => ?_⟩
  obtain ⟨f, reads, run⟩ := exec_decodeStatus_commits sender len texts
  refine ⟨_, run, rfl, rfl, rfl, fun j => reads.name j j.isLt, fun i flagged => ?_, fun i unflagged =>
    commitStatus_entry_disabled sender s (mt (reads.enabled i).mp unflagged), ?_, ?_, ?_, reads.b310, reads.csumOk, ?_,
    rfl, rfl, rfl, rfl, rfl⟩
  · obtain ⟨present, name⟩ := commitStatus_entry_enabled sender s ((reads.enabled i).mpr flagged)
    refine ⟨present, fun j => ?_⟩
    rw [respond_chName, name]
    exact reads.channelName i j j.isLt
  · rw [respond_powered, commitStatus_powered, reads.b307]
    rfl
  · rw [respond_muted, commitStatus_muted, reads.b308]
    rfl
  · rw [respond_activeCh, commitStatus_activeCh, toNat_fieldActive, reads.b308]
  · rw [respond_outputs, commitStatus_outputs, reads.commitWord]

/-- Settles O27: the response word of OK is 0, and `CONNECTED` is the one register written. -/
theorem timeoutClearsConnectedOnly : Obligations.TimeoutClearsConnectedOnly :=
  ⟨rfl, fun _ => rfl⟩

end Sys2Proof.Machine
end

section
/-! SUPPORT. The sequence octets of the transmit history: one command adds four datagrams whose octets 3 count on from the
stamp value, and octet 5 is half of octet 3 (42_command_encoder.md R153, R154, R164). -/

namespace Sys2Proof.Machine

/-! ### The sequence octets of a list of datagrams -/

/-- Octet 3 of a datagram, the sequence value it carries (30_encoding.md R70). -/
def Datagram.seqOctet (d : Datagram) : Octet := octetAt d.octets 3

/-- Octet 5 of a datagram, half of its sequence value (30_encoding.md R71). -/
def Datagram.halfOctet (d : Datagram) : Octet := octetAt d.octets 5

/-- The datagrams carry `v`, `v + 1`, … modulo 256 at offset 3. -/
def NumberedFrom (v : BitVec 8) (ds : List Datagram) : Prop :=
  ∀ (k : Nat) (d : Datagram), ds[k]? = some d → d.seqOctet = v + BitVec.ofNat 8 k

/-- Every datagram carries half of its octet 3 at offset 5. -/
def Halved (ds : List Datagram) : Prop := ∀ d ∈ ds, d.halfOctet = d.seqOctet >>> 1

section
variable {v : BitVec 8} {ds es : List Datagram}

theorem NumberedFrom.append (hd : NumberedFrom v ds) (he : NumberedFrom (v + BitVec.ofNat 8 ds.length) es) :
    NumberedFrom v (ds ++ es) := by
  intro k d at_k
  obtain front | back := Nat.lt_or_ge k ds.length
  · exact hd k d (List.getElem?_append_left front ▸ at_k)
  · rw [he (k - ds.length) d (List.getElem?_append_right back ▸ at_k), BitVec.add_assoc, ← BitVec.ofNat_add,
      Nat.add_sub_cancel' back]

theorem Halved.append (hd : Halved ds) (he : Halved es) : Halved (ds ++ es) := fun d mem =>
  (List.mem_append.mp mem).elim (hd d) (he d)

/-- Fewer than 256 places on, each place has its own sequence value. -/
theorem eq_of_add_ofNat_eq {j k : Nat} (hj : j < 256) (hk : k < 256) (h : v + BitVec.ofNat 8 j = v + BitVec.ofNat 8 k) :
    j = k := by
  have low := congrArg BitVec.toNat (BitVec.add_right_inj v |>.mp h)
  rwa [BitVec.toNat_ofNat, BitVec.toNat_ofNat, Nat.mod_eq_of_lt hj, Nat.mod_eq_of_lt hk] at low

theorem NumberedFrom.map_seqOctet (hd : NumberedFrom v ds) :
    ds.map Datagram.seqOctet = (List.range ds.length).map (v + BitVec.ofNat 8 ·) := by
  refine List.ext_getElem (by rw [List.length_map, List.length_map, List.length_range]) fun k hk _ => ?_
  rw [List.getElem_map, List.getElem_map, List.getElem_range]
  exact hd k _ (List.getElem?_eq_getElem _)

/-- Up to 256 datagrams in order carry distinct values. -/
theorem NumberedFrom.nodup (hd : NumberedFrom v ds) (short : ds.length ≤ 256) : (ds.map Datagram.seqOctet).Nodup := by
  rw [hd.map_seqOctet]
  refine List.Nodup.map_on (fun j hj k hk same => ?_) List.nodup_range
  exact eq_of_add_ofNat_eq ((List.mem_range.mp hj).trans_le short) ((List.mem_range.mp hk).trans_le short) same

end

/-! ### What one command adds -/

section
variable (dst : BitVec 32) (a b : Octet) (p : BitVec 16) (n : Nat) (v : BitVec 8)

theorem numberedFrom_emitted : NumberedFrom v (emitted dst a b p n v) := fun _ _ at_k => by
  rw [eq_of_mem_emitted dst a b p at_k]
  rfl

theorem halved_emitted : Halved (emitted dst a b p n v) := fun _ mem => by
  obtain ⟨_, at_k⟩ := List.mem_iff_getElem?.mp mem
  rw [eq_of_mem_emitted dst a b p at_k]
  rfl

variable (s : State)

/-- The next command begins four values on, in either stamp order (R153). -/
theorem stampValue_afterSend : stampValue (afterSend a b p s) = stampValue s + 4#8 := by
  show (if s.config.seqPreIncrement then s.seq + 4#8 + 1#8 else s.seq + 4#8) = stampValue s + 4#8
  rw [stampValue]
  split
  · rw [BitVec.add_assoc, BitVec.add_assoc, BitVec.add_comm 4#8]
  · rfl

end

/-- One command passes the guard: from `s` to `t` the history gains four datagrams in order from the stamp value, and the
counter and the next stamp value are four further. -/
structure SendsFour (s t : State) (ds : List Datagram) : Prop where
  connected : t.connected = s.connected
  seq : t.seq = s.seq + 4#8
  stamp : stampValue t = stampValue s + 4#8
  sent : t.sent = s.sent ++ ds
  length : ds.length = 4
  numbered : NumberedFrom (stampValue s) ds
  halved : Halved ds

theorem sendsFour_afterSend (a b : Octet) (p : BitVec 16) (s : State) :
    SendsFour s (afterSend a b p s) (emitted s.srcAddr a b p 4 (stampValue s)) where
  connected := rfl
  seq := rfl
  stamp := stampValue_afterSend a b p s
  sent := sent_of_outputs rfl
  length := length_emitted ..
  numbered := numberedFrom_emitted s.srcAddr a b p 4 (stampValue s)
  halved := halved_emitted s.srcAddr a b p 4 (stampValue s)

theorem sendsFour_of_exec {i : Instr} {s t : State} (hi : isSend i = true) (hc : s.connected = true)
    (h : exec i s = .next t) : ∃ ds, SendsFour s t ds := by
  obtain ⟨dropped, -⟩ | ⟨-, a, b, p, -, run⟩ := exec_send_cases hi s
  · exact absurd (hc.symm.trans dropped) nofun
  · cases run.symm.trans h
    exact ⟨_, sendsFour_afterSend a b p s⟩

/-- Settles O35: the second command's four datagrams continue the first's, and eight values in order are distinct. -/
theorem twoCommandsCarryEightSequenceValues : Obligations.TwoCommandsCarryEightSequenceValues := by
  intro i j s t u hi hj hc runs runs'
  obtain ⟨ds, sends⟩ := sendsFour_of_exec hi hc runs
  obtain ⟨es, sends'⟩ := sendsFour_of_exec hj (sends.connected.trans hc) runs'
  have stamp : stampValue t = stampValue s + BitVec.ofNat 8 ds.length := by rw [sends.stamp, sends.length]
  have numbered : NumberedFrom (stampValue s) (ds ++ es) := sends.numbered.append (stamp ▸ sends'.numbered)
  have length : (ds ++ es).length = 8 := by rw [List.length_append, sends.length, sends'.length]
  refine ⟨ds ++ es, by rw [sends'.sent, sends.sent, List.append_assoc], length, fun k d at_k => ?_, ?_⟩
  · have value := numbered k d at_k
    exact ⟨value, value ▸ sends.halved.append sends'.halved d (List.mem_of_getElem? at_k)⟩
  · refine List.Nodup.of_map Prod.fst ?_
    rw [List.map_map]
    exact numbered.nodup (by omega)

/-! ### The number of the datagram is the value it carries -/

/-- `SEQ` is the number of datagrams sent modulo 256, and datagram `n` carries `n` modulo 256. -/
structure Counted (s : State) : Prop where
  seq : s.seq = BitVec.ofNat 8 s.sent.length
  numbered : NumberedFrom 0#8 s.sent

theorem toNat_eq_mod_iff (x : BitVec 8) (n : Nat) : x.toNat = n % 256 ↔ x = BitVec.ofNat 8 n := by
  rw [← BitVec.toNat_inj, BitVec.toNat_ofNat]

theorem counted_iff (s : State) : Counted s ↔ s.seq.toNat = s.sent.length % 256 ∧
    ∀ (n : Nat) (d : Datagram), s.sent[n]? = some d → (octetAt d.octets 3).toNat = n % 256 := by
  simp only [toNat_eq_mod_iff]
  constructor
  · rintro ⟨seq, numbered⟩
    exact ⟨seq, fun n d at_n => (numbered n d at_n).trans (BitVec.zero_add _)⟩
  · rintro ⟨seq, numbered⟩
    exact ⟨seq, fun n d at_n => (numbered n d at_n).trans (BitVec.zero_add _).symm⟩

theorem counted_reset : Counted State.reset := ⟨rfl, nofun⟩

section
variable {s t : State}

/-- What leaves `SEQ` and the transmit history keeps the count. -/
theorem Counted.of_same (c : Counted s) (seq : t.seq = s.seq) (sent : t.sent = s.sent) : Counted t :=
  ⟨by rw [seq, sent, c.seq], sent ▸ c.numbered⟩

theorem Counted.observe (c : Counted s) {e : Event} (no : ∀ d, e ≠ .emit d) : Counted (observe e s) :=
  c.of_same rfl (sent_observe no s)

/-- A command keeps the count where the stamp is the counter before its increment: the counter is then the number of the
first new datagram (R153). -/
theorem Counted.of_sendsFour (c : Counted s) (order : s.config.seqPreIncrement = false) {ds : List Datagram}
    (sends : SendsFour s t ds) : Counted t where
  seq := by rw [sends.seq, sends.sent, c.seq, List.length_append, sends.length, BitVec.ofNat_add]
  numbered := by
    have stamp : stampValue s = 0#8 + BitVec.ofNat 8 s.sent.length := by
      rw [stampValue, order, if_neg nofun, c.seq, BitVec.zero_add]
    rw [sends.sent]
    exact c.numbered.append (stamp ▸ sends.numbered)

theorem Counted.exec {i : Instr} (c : Counted s) (order : s.config.seqPreIncrement = false)
    (h : exec i s = .next t) : Counted t := by
  obtain ⟨e, no, rfl⟩ | ⟨-, rfl⟩ | ⟨sender, _, f, -, -, -, -, rfl⟩ | ⟨-, -, a, b, p, -, rfl⟩ := exec_cases h
  · exact c.observe no
  · exact (c.of_same (t := setConnected false s) rfl rfl).observe nofun
  · exact (c.of_same (t := commitStatus sender f s) rfl rfl).observe nofun
  · exact c.of_sendsFour order (sendsFour_afterSend a b p s)

theorem Counted.step (c : Counted s) (order : s.config.seqPreIncrement = false)
    (no_reset : s.pending.head? ≠ some .reset) (h : step s = .next t) : Counted t := by
  have taken (rest : List Input) : Counted (setPending rest s) := c.of_same rfl rfl
  obtain ⟨-, rfl⟩ | ⟨_, hp, -⟩ | ⟨_, rest, _, -, -, run⟩ | ⟨_, rest, _, -, -, -, rfl⟩ | ⟨_, rest, -, -, rfl⟩ :=
    step_cases h
  · exact c
  · exact absurd (hp ▸ rfl) no_reset
  · exact (taken rest).exec order run
  · exact (taken rest).observe nofun
  · exact (taken rest).observe nofun

end

/-- Settles O46: the invariant at reset and along each way a step without the reset input can go on. -/
theorem nthDatagramCarriesItsNumber : Obligations.NthDatagramCarriesItsNumber := by
  refine ⟨(counted_iff _).mp counted_reset, fun s t order no_reset counted h => ?_⟩
  exact (counted_iff t).mp (((counted_iff s).mpr counted).step order no_reset h)

end Sys2Proof.Machine
end

section
/-! SUPPORT. The four SEND operations: their request words, and the frames each of them emits (42_command_encoder.md R157 to
R160). -/

namespace Sys2Proof.Machine

/-! ### The outcome of every SEND operation -/

/-- Not connected, a SEND operation answers OK and does nothing else (R151). -/
theorem exec_send_dropped {i : Instr} (hi : isSend i = true) {s : State} (hc : s.connected = false) :
    exec i s = .next { s with outputs := s.outputs ++ [.response 0x00000000#32] } := by
  obtain ⟨-, run⟩ | ⟨connected, -⟩ := exec_send_cases hi s
  · exact run
  · exact absurd (connected.symm.trans hc) nofun

/-- Connected, a command goes out four times and OK is answered (R152 to R156, R161); `TXF` has some canonical contents
(20_memory.md R46). -/
theorem sendCommand_emits (a b : Octet) (p : BitVec 16) {s : State} (hc : s.connected = true) :
    ∃ m : Memory, Memory.wf m = true ∧ sendCommand a b p s = .next { s with
      seq := s.seq + 4#8
      txf := m
      freeCount := s.freeCount + 1
      outputs := s.outputs
        ++ emissions s.srcAddr a b p 4 (if s.config.seqPreIncrement then s.seq + 1#8 else s.seq)
        ++ [.response 0x00000000#32] } :=
  ⟨_, wf_forgetTxf s, sendCommand_connected hc⟩

/-! ### Their meanings as commands (R157 to R160) -/

theorem exec_sendTogglePower (s : State) :
    exec .sendTogglePower s = sendCommand (toggleRequest s.powered) 0x01#8 0x0000#16 s := rfl

theorem exec_sendToggleMute (s : State) :
    exec .sendToggleMute s = sendCommand (toggleRequest s.muted) 0x07#8 0x0000#16 s := rfl

theorem exec_sendSetVolume (h : BitVec 16) (s : State) :
    exec (.sendSetVolume h) s = sendCommand 0x00#8 0x04#8 (dbToRegister h.toInt) s := rfl

theorem exec_sendSetOutput (i : BitVec 4) (s : State) :
    exec (.sendSetOutput i) s = sendCommand 0x00#8 0x05#8 (outputPayload i) s := rfl

/-! ### The operands -/

/-- Octet 6 of a toggle command is 1 where the current state is 0 (30_encoding.md R72). -/
theorem toggleRequest_eq (current : Bool) : toggleRequest current = if current = false then 0x01#8 else 0x00#8 := by
  cases current <;> rfl

/-- The payload of an output command: steps of 32 up to index 7, steps of 16 above (30_encoding.md R74). -/
theorem outputPayload_eq (i : BitVec 4) : outputPayload i =
    if i.toNat ≤ 7 then 0x4000#16 + BitVec.ofNat 16 (32 * i.toNat)
    else 0x4100#16 + BitVec.ofNat 16 (16 * (i.toNat - 8)) := by
  revert i
  decide

/-- The request word of SEND_SET_OUTPUT: the index below 28 bits that do not depend on it (30_encoding.md R63). -/
theorem reqWord_five_index (i : BitVec 4) : reqWord 0x5#4 (0#12 ++ i) = 0x5000000#28 ++ i := by
  revert i
  decide

/-! ### The four statements -/

/-- Settles O30: octet 6 asks for the opposite of `POWERED`. -/
theorem togglePowerEmitsFourFrames : Obligations.TogglePowerEmitsFourFrames := by
  refine ⟨rfl, fun s hc => exec_send_dropped rfl hc, fun s hc => ?_⟩
  rw [exec_sendTogglePower, toggleRequest_eq]
  exact sendCommand_emits _ _ _ hc

/-- Settles O31: octet 6 asks for the opposite of `MUTED`. -/
theorem toggleMuteEmitsFourFrames : Obligations.ToggleMuteEmitsFourFrames := by
  refine ⟨rfl, fun s hc => exec_send_dropped rfl hc, fun s hc => ?_⟩
  rw [exec_sendToggleMute, toggleRequest_eq]
  exact sendCommand_emits _ _ _ hc

/-- Settles O32: the payload is `db_to_register` of the operand as a signed number. -/
theorem setVolumeEmitsFourFrames : Obligations.SetVolumeEmitsFourFrames := by
  intro h
  refine ⟨rfl, fun s hc => exec_send_dropped rfl hc, fun s hc => ?_⟩
  rw [exec_sendSetVolume]
  exact sendCommand_emits _ _ _ hc

/-- Settles O33: the request word and the payload by their closed forms, for every index. -/
theorem setOutputEmitsFourFrames : Obligations.SetOutputEmitsFourFrames := by
  intro i
  refine ⟨by rw [encode, encodeRequest, reqWord_five_index], fun s hc => exec_send_dropped rfl hc, fun s hc => ?_⟩
  rw [exec_sendSetOutput, outputPayload_eq]
  exact sendCommand_emits _ _ _ hc

end Sys2Proof.Machine
end

section
/-! SUPPORT. The Volume Codec: the band of each step, the magnitude band by band, its loop and its recursion, and the
registers `db_to_register` can answer (43_volume_codec.md R182 to R190). -/

namespace Sys2Proof.Machine

/-! ### The band of a step (R183) -/

/-- The search from `s` on ends at the least exponent that is not below `s`, where the fuel reaches it. -/
theorem clog2From_le_iff {fuel s k : Nat} (reach : k ≤ 2 ^ (s + fuel)) (t : Nat) :
    clog2From fuel s k ≤ t ↔ s ≤ t ∧ k ≤ 2 ^ t := by
  induction fuel generalizing s with
  | zero => exact ⟨fun le => ⟨le, reach.trans (Nat.pow_le_pow_right two_pos le)⟩, And.left⟩
  | succ fuel ih =>
    rw [clog2From]
    split
    · next found => exact ⟨fun le => ⟨le, found.trans (Nat.pow_le_pow_right two_pos le)⟩, And.left⟩
    · next above =>
      rw [ih (by rwa [Nat.succ_add])]
      refine ⟨fun ⟨lt, le⟩ => ⟨Nat.le_of_succ_le lt, le⟩, fun ⟨le, enough⟩ => ⟨?_, enough⟩⟩
      exact Nat.lt_of_le_of_ne le fun same => above (same ▸ enough)

theorem clog2_le_iff {k s : Nat} : clog2 k ≤ s ↔ k ≤ 2 ^ s := by
  have reach : k ≤ 2 ^ (0 + k) := by rw [Nat.zero_add]; exact Nat.lt_two_pow_self.le
  rw [clog2, clog2From_le_iff reach, and_iff_right (Nat.zero_le s)]

theorem clog2_of_band {s k : Nat} (above : 2 ^ s < k) (upTo : k ≤ 2 ^ (s + 1)) : clog2 k = s + 1 :=
  le_antisymm (clog2_le_iff.mpr upTo) (Nat.lt_of_not_le fun le => absurd (clog2_le_iff.mp le) (Nat.not_le.mpr above))

theorem inc_eq_div (k : Nat) : inc k = 256 / 2 ^ clog2 k := Nat.shiftRight_eq_div_pow ..

theorem inc_of_band {s k : Nat} (above : 2 ^ s < k) (upTo : k ≤ 2 ^ (s + 1)) : inc k = 256 / 2 ^ (s + 1) := by
  rw [inc_eq_div, clog2_of_band above upTo]

/-- Exactly the steps up to 256 add something. -/
theorem inc_pos_iff {k : Nat} : 0 < inc k ↔ k ≤ 256 :=
  calc 0 < inc k
    _ ↔ 2 ^ clog2 k ≤ 256 := by rw [inc_eq_div, Nat.div_pos_iff, and_iff_right (Nat.two_pow_pos _)]
    _ ↔ clog2 k ≤ 8 := Nat.pow_le_pow_iff_right (m := 8) one_lt_two
    _ ↔ k ≤ 256 := clog2_le_iff

theorem inc_beyond {k : Nat} (h : 257 ≤ k) : inc k = 0 :=
  Nat.eq_zero_of_not_pos fun pos => absurd (inc_pos_iff.mp pos) (by omega)

/-- Settles O16: all three clauses from `clog2 k ≤ s ↔ k ≤ 2 ^ s`. -/
theorem incrementFollowsTheLeastExponent : Obligations.IncrementFollowsTheLeastExponent := by
  refine ⟨fun k => ⟨clog2_le_iff.mp le_rfl, fun _ => clog2_le_iff.mpr⟩, fun s k positive above upTo => ?_,
    fun _ => inc_beyond⟩
  obtain ⟨s, rfl⟩ := Nat.exists_eq_succ_of_ne_zero (Nat.pos_iff_ne_zero.mp positive)
  exact inc_of_band above upTo

/-! ### The magnitude, band by band (R184, R188) -/

theorem mag_succ {k : Nat} (h : 1 ≤ k) : mag (k + 1) = mag k + inc (k + 1) := by
  obtain ⟨k, rfl⟩ := Nat.exists_eq_add_of_le' h
  rw [mag, Nat.add_comm]

/-- Within the band above `2 ^ s` every step adds the same. -/
theorem mag_two_pow_add {s n : Nat} (h : n ≤ 2 ^ s) : mag (2 ^ s + n) = mag (2 ^ s) + n * (256 / 2 ^ (s + 1)) := by
  induction n with
  | zero => simp
  | succ n ih =>
    have step : inc (2 ^ s + n + 1) = 256 / 2 ^ (s + 1) := inc_of_band (by omega) (by omega)
    rw [← Nat.add_assoc, mag_succ (Nat.le_add_right_of_le Nat.one_le_two_pow), ih (by omega), step, Nat.add_assoc,
      Nat.succ_mul]

/-- A whole band up to 256 adds 128. -/
theorem mag_two_pow {j : Nat} (h : j ≤ 8) : mag (2 ^ j) = 0x3F00 + 0x80 * j := by
  induction j with
  | zero => rfl
  | succ j ih =>
    have whole : 2 ^ j * (256 / 2 ^ (j + 1)) = 0x80 := by
      rw [show 256 = 2 ^ 8 from rfl, Nat.pow_div h two_pos, ← Nat.pow_add, show j + (8 - (j + 1)) = 7 by omega]
    rw [pow_succ, Nat.mul_two, mag_two_pow_add le_rfl, ih (by omega), whole, Nat.add_assoc, Nat.mul_succ]

/-- Settles O18: `K` is in the band that ends at `2 ^ clog2 K`, so many steps above `2 ^ (clog2 K - 1)`. -/
theorem magnitudeIsLinearInEachBand : Obligations.MagnitudeIsLinearInEachBand := by
  refine ⟨rfl, fun _ => mag_two_pow, fun K low high => ?_⟩
  have positive : ¬ clog2 K ≤ 0 := fun le => absurd (clog2_le_iff.mp le) (by omega)
  have atMost : clog2 K ≤ 8 := clog2_le_iff.mpr high
  obtain ⟨s, band⟩ := Nat.exists_eq_succ_of_ne_zero (mt Nat.le_of_eq positive)
  have above : 2 ^ s < K := Nat.lt_of_not_le fun le => absurd (clog2_le_iff.mpr le) (by omega)
  have upTo : K ≤ 2 ^ (s + 1) := clog2_le_iff.mp band.le
  obtain ⟨n, rfl⟩ := Nat.exists_eq_add_of_lt above
  refine ⟨by omega, atMost, ?_⟩
  rw [band, Nat.succ_sub_one, Nat.shiftRight_eq_div_pow, Nat.add_assoc, Nat.add_sub_cancel_left,
    mag_two_pow_add (by omega), mag_two_pow (by omega)]

/-! ### Saturation and growth (R189) -/

theorem mag_saturates {K : Nat} (h : 256 ≤ K) : mag K = 0x4300 := by
  induction K, h using Nat.le_induction with
  | base => exact mag_two_pow (j := 8) le_rfl
  | succ K h ih => rw [mag_succ (by omega), ih, inc_beyond (by omega)]

theorem mag_strictMonoOn : StrictMonoOn mag (Set.Icc 1 256) := by
  refine strictMonoOn_of_lt_add_one Set.ordConnected_Icc fun k _ here next => ?_
  rw [mag_succ here.1]
  exact Nat.lt_add_of_pos_right (inc_pos_iff.mpr next.2)

theorem mag_le (K : Nat) : mag K ≤ 0x4300 := by
  obtain rfl | positive := Nat.eq_zero_or_pos K
  · exact Nat.zero_le _
  · obtain low | high := Nat.le_total K 256
    · rw [← mag_saturates le_rfl]
      exact mag_strictMonoOn.monotoneOn ⟨positive, low⟩ ⟨by decide, le_rfl⟩ low
    · exact (mag_saturates high).le

/-! ### The loop (R185) -/

theorem magSteps_eq_mag (n : Nat) : magSteps n 2 0x3F00 = mag (n + 1) := by
  induction n with
  | zero => rfl
  | succ n ih => rw [magSteps_add, ih, mag_succ (Nat.le_add_left 1 n), magSteps, magSteps, Nat.add_comm 2 n]

/-- Stopping at 256 loses nothing, as the magnitude is saturated there. -/
theorem magLoop_eq_mag (K : Nat) : magLoop K = mag K := by
  obtain rfl | positive := Nat.eq_zero_or_pos K
  · rfl
  · rw [magLoop, if_neg (by omega), magSteps_eq_mag, Nat.sub_add_cancel (by omega)]
    obtain low | high := Nat.le_total K 256
    · rw [Nat.min_eq_left low]
    · rw [Nat.min_eq_right high, mag_saturates le_rfl, mag_saturates high]

/-- Settles O17: the loop by its number of steps, the one that stops at 256 by saturation. -/
theorem magnitudeLoopIsTheRecursion : Obligations.MagnitudeLoopIsTheRecursion := by
  refine fun K => ⟨?_, magLoop_eq_mag K⟩
  cases K with
  | zero => rfl
  | succ n => rw [if_neg n.succ_ne_zero, Nat.succ_sub_one, magSteps_eq_mag]

/-! ### The registers (R186) -/

/-- `0x8000 | mag(K)`: the register of a negative level whose clamped operand is `-K` (R186). -/
def signedMag (K : Nat) : BitVec 16 := 0x8000#16 ||| BitVec.ofNat 16 (mag K)

/-- The sign bit lies above the magnitude. -/
theorem toNat_signedMag (K : Nat) : (signedMag K).toNat = 0x8000 + mag K := by
  have below : mag K < 2 ^ 15 := Nat.lt_of_le_of_lt (mag_le K) (by decide)
  rw [signedMag, BitVec.toNat_or, BitVec.toNat_ofNat (mag K), Nat.mod_eq_of_lt (by omega)]
  exact (Nat.two_pow_add_eq_or_of_lt below 1).symm

theorem signedMag_saturates {K : Nat} (h : 256 ≤ K) : signedMag K = 0xC300#16 := by
  rw [signedMag, mag_saturates h]
  rfl

theorem signedMag_injOn : Set.InjOn signedMag (Set.Icc 1 256) := fun K hK L hL same => by
  have values := congrArg BitVec.toNat same
  rw [toNat_signedMag, toNat_signedMag] at values
  exact mag_strictMonoOn.injOn hK hL (Nat.add_left_cancel values)

/-- Consequence (a) of R186. -/
theorem dbToRegister_of_le {h : Int} (atCeiling : h ≤ -20) : dbToRegister h = signedMag h.natAbs := by
  obtain ⟨K, rfl⟩ : ∃ K : Nat, h = -(K : Int) := ⟨h.natAbs, by omega⟩
  rw [dbToRegister_neg (by omega), magLoop_eq_mag, Int.natAbs_neg, Int.natAbs_natCast, signedMag]

/-- Above the ceiling only the sign of the operand is left in the register. -/
theorem dbToRegister_of_gt {h : Int} (aboveCeiling : -20 < h) :
    dbToRegister h = if h < 0 then 0xC120#16 else 0x4120#16 := by
  have ceiling : min h Config.dbCeiling = -20 := by simp only [Config.dbCeiling]; omega
  rw [dbToRegister, ceiling]
  rfl

/-- Settles O20: the definition with the loop read as the recursion; the consequences by the side of the ceiling that
`h` is on. -/
theorem registerHasClampMagnitudeAndSign : Obligations.RegisterHasClampMagnitudeAndSign := by
  refine fun h => ⟨?_, dbToRegister_of_le, fun above neg => ?_, fun nonneg => ?_⟩
  · rw [dbToRegister, magLoop_eq_mag]
  · rw [dbToRegister_of_gt above, if_pos neg]
  · rw [dbToRegister_of_gt (by omega), if_neg (by omega)]

/-! ### The range of `db_to_register` (R189) -/

theorem exists_dbToRegister_eq_iff (r : BitVec 16) :
    (∃ h : Int, dbToRegister h = r) ↔ r = 0x4120#16 ∨ ∃ K : Nat, 20 ≤ K ∧ K ≤ 256 ∧ r = signedMag K := by
  constructor
  · rintro ⟨h, rfl⟩
    obtain atCeiling | above := le_or_gt h (-20)
    · obtain low | high := Nat.le_total h.natAbs 256
      · exact .inr ⟨h.natAbs, by omega, low, dbToRegister_of_le atCeiling⟩
      · refine .inr ⟨256, by decide, le_rfl, ?_⟩
        rw [dbToRegister_of_le atCeiling, signedMag_saturates high, signedMag_saturates le_rfl]
    · rw [dbToRegister_of_gt above]
      split
      · exact .inr ⟨20, le_rfl, by decide, rfl⟩
      · exact .inl rfl
  · rintro (rfl | ⟨K, low, -, rfl⟩)
    · exact ⟨0, rfl⟩
    · exact ⟨-(K : Int), by rw [dbToRegister_of_le (by omega), Int.natAbs_neg, Int.natAbs_natCast]⟩

/-- The values of `db_to_register`: `0x4120`, then the curve from step 20 to step 256. -/
def registerValues : List (BitVec 16) := 0x4120#16 :: (List.range' 20 237).map signedMag

theorem mem_registerValues (r : BitVec 16) : r ∈ registerValues ↔ ∃ h : Int, dbToRegister h = r := by
  have steps (K : Nat) : K ∈ List.range' 20 237 ↔ 20 ≤ K ∧ K ≤ 256 := by rw [List.mem_range'_1]; omega
  simp only [registerValues, List.mem_cons, List.mem_map, steps, exists_dbToRegister_eq_iff, and_assoc,
    eq_comm (a := r)]

/-- The curve has the sign bit that `0x4120` has not, and does not repeat up to 256. -/
theorem nodup_registerValues : registerValues.Nodup := by
  refine List.nodup_cons.mpr ⟨fun mem => ?_, List.Nodup.map_on (fun K hK L hL same => ?_) List.nodup_range'⟩
  · obtain ⟨K, -, same⟩ := List.mem_map.mp mem
    have value := congrArg BitVec.toNat same
    rw [toNat_signedMag, BitVec.toNat_ofNat] at value
    omega
  · rw [List.mem_range'_1] at hK hL
    exact signedMag_injOn ⟨by omega, by omega⟩ ⟨by omega, by omega⟩ same

theorem toNat_dbToRegister_le (h : Int) : (dbToRegister h).toNat ≤ 0xC300 := by
  obtain value | ⟨K, -, -, value⟩ := (exists_dbToRegister_eq_iff _).mp ⟨h, rfl⟩
  · rw [value]
    decide
  · rw [value, toNat_signedMag]
    exact Nat.add_le_add_left (mag_le K) 0x8000

/-- Settles O19: each clause from the magnitude's growth up to 256 and its saturation from there on. -/
theorem magnitudeSaturatesAndIncreases : Obligations.MagnitudeSaturatesAndIncreases := by
  refine ⟨fun _ => mag_saturates, fun K L low lt high => ?_, fun h floor => ?_,
    fun h k hlow hhigh klow khigh same => ?_, exists_dbToRegister_eq_iff,
    ⟨registerValues, nodup_registerValues, ?_, mem_registerValues⟩, toNat_dbToRegister_le⟩
  · exact mag_strictMonoOn ⟨low, by omega⟩ ⟨by omega, high⟩ lt
  · rw [dbToRegister_of_le (by omega), signedMag_saturates (by omega)]
  · rw [dbToRegister_of_le hhigh, dbToRegister_of_le khigh] at same
    have steps := signedMag_injOn ⟨by omega, by omega⟩ ⟨by omega, by omega⟩ same
    omega
  · rw [registerValues, List.length_cons, List.length_map, List.length_range']

/-! ### The two operations of the codec (R187, R190) -/

theorem exec_db2reg (h : BitVec 16) (s : State) :
    exec (.db2reg h) s = .next (respond .ok (dbToRegister h.toInt) s) := rfl

theorem exec_reg2db (v : BitVec 8) (s : State) : exec (.reg2db v) s = .next (respond .ok (rawToHalfDb v) s) := rfl

/-- The level of an octet fits in 16 bits. -/
theorem toInt_rawToHalfDb (v : BitVec 8) : (rawToHalfDb v).toInt = (v.toNat : Int) - 195 := by
  have bound := v.isLt
  rw [rawToHalfDb, BitVec.toInt_ofInt, Int.bmod_eq_of_le (by omega) (by omega)]

/-- The request word of REG2DB: the octet below 24 bits that do not depend on it (30_encoding.md R63). -/
theorem reqWord_eight_octet (v : BitVec 8) : reqWord 0x8#4 (0#8 ++ v) = 0x800000#24 ++ v := by
  apply BitVec.eq_of_toNat_eq
  rw [toNat_reqWord, toNat_append_octets, BitVec.toNat_append, ← Nat.shiftLeft_add_eq_or_of_lt v.isLt]
  simp

/-- Settles O14: the request word has the operand as its low half, and the answer is the one response. -/
theorem db2regAnswersTheRegister : Obligations.Db2regAnswersTheRegister := by
  refine fun h => ⟨rfl, fun s => ?_⟩
  rw [exec_db2reg, respond, rspWord_ok]
  rfl

/-- Settles O15: the VALUE is the level, in range for a signed 16-bit number. -/
theorem reg2dbAnswersTheLevel : Obligations.Reg2dbAnswersTheLevel := by
  refine fun v => ⟨by rw [encode, encodeRequest, reqWord_eight_octet], fun s =>
    ⟨rawToHalfDb v, toInt_rawToHalfDb v, ?_⟩⟩
  rw [exec_reg2db, respond, rspWord_ok]
  rfl

end Sys2Proof.Machine
end

section
/-! SUPPORT. The aborts of DECODE_STATUS and the dropped command: each condition's response, and the whole state kept
(60_exceptions.md R203 to R205, R210). -/

namespace Sys2Proof.Machine

/-! ### What taking an aborting condition does (R207, R210) -/

theorem rspWord_malformedPayload (field : BitVec 16) : rspWord .malformedPayload field = 0x2000#16 ++ field := rfl

theorem rspWord_frameLength (n : BitVec 16) : rspWord .frameLength n = 0x3000#16 ++ n := rfl

theorem raise_malformedPayload (field : BitVec 16) (s : State) : raise (.malformedPayload field) s =
    { s with outputs := s.outputs ++ [.response (0x2000#16 ++ field)] } := by
  rw [← rspWord_malformedPayload]
  rfl

theorem raise_frameLength (n : BitVec 16) (s : State) : raise (.frameLength n) s =
    { s with outputs := s.outputs ++ [.response (0x3000#16 ++ n)] } := by
  rw [← rspWord_frameLength]
  rfl

/-! ### The first malformed text field (R123, R203) -/

section
variable {f : StatusFields}

/-- The device name comes before every channel. -/
theorem firstMalformed_name (malformed : utf8Wf f.name.toList = false) : firstMalformed f = some 0x001F#16 := by
  rw [firstMalformed, malformed]
  rfl

/-- After a well-formed device name the lowest enabled channel with a malformed name is named. -/
theorem firstMalformed_channel {i : Fin 15} (name : utf8Wf f.name.toList = true) (enabled : channelEnabled f i = true)
    (malformed : utf8Wf (channelName f i).toList = false)
    (below : ∀ k < i, channelEnabled f k = true → utf8Wf (channelName f k).toList = true) :
    firstMalformed f = some (BitVec.ofNat 16 i.val) := by
  have lowest : ((List.finRange 15).find? fun k => channelEnabled f k && !utf8Wf (channelName f k).toList) = some i := by
    rw [← Fin.find?_eq_find?_finRange, Fin.find?_eq_some_iff]
    refine ⟨by rw [enabled, malformed]; rfl, fun k lower => ?_⟩
    cases flag : channelEnabled f k with
    | false => rfl
    | true => rw [below k lower flag]; rfl
  rw [firstMalformed, if_pos name, lowest, Option.map_some]

end

/-! ### The two aborts of DECODE_STATUS -/

/-- The fields read of a frame decide the abort: whatever is read of it, `field` is its first malformed one. -/
theorem exec_decodeStatus_malformed (sender : BitVec 32) {rxf : List Octet} {s : State} {field : BitVec 16}
    (len : LengthAdmitted s rxf) (first : ∀ f, ReadsFrame rxf f → firstMalformed f = some field) :
    exec (.decodeStatus sender rxf) s = .next { s with
      outputs := s.outputs ++ [.response (0x2000#16 ++ field)] } := by
  obtain ⟨f, reads, run⟩ := execDecodeStatus_admitted sender len
  rw [exec, run, first f reads, ← raise_malformedPayload]

/-- Settles O22: the name decides first, then the lowest enabled channel. -/
theorem malformedTextRaisesMalformedPayload : Obligations.MalformedTextRaisesMalformedPayload := by
  intro sender rxf s len
  refine ⟨fun malformed => ?_, fun i name flagged malformed below => ?_⟩
  · refine exec_decodeStatus_malformed sender len fun f reads => firstMalformed_name ?_
    rwa [reads.nameList len.1]
  · refine exec_decodeStatus_malformed sender len fun f reads =>
      firstMalformed_channel ?_ ((reads.enabled i).mpr flagged) ?_ fun k lower enabled => ?_
    · rwa [reads.nameList len.1]
    · rwa [reads.channelNameList len.1]
    · rw [reads.channelNameList len.1]
      exact below k lower ((reads.enabled k).mp enabled)

/-- Settles O21: both lengths outside the bounds fail the one check of R121. -/
theorem wrongLengthRaisesFrameLength : Obligations.WrongLengthRaisesFrameLength := by
  intro sender rxf s outside
  have rejected : ¬ LengthAdmitted s rxf := fun ⟨least, most⟩ =>
    outside.elim (Nat.not_lt.mpr least) (Nat.not_lt.mpr most)
  rw [exec, execDecodeStatus_length rejected, raise_frameLength]

/-! ### The dropped command -/

/-- Settles O29: R151's guard is the same for all four SEND operations. -/
theorem droppedCommandChangesNothing : Obligations.DroppedCommandChangesNothing :=
  fun _ _ send notConnected => exec_send_dropped send notConnected

end Sys2Proof.Machine
end

section
/-! SUPPORT. What R82's classifier reports of a command frame, row by row, and what a step does with each input the host
can present (30_encoding.md R82; 00_scope.md R8; 70_reset_and_hazards.md R230). -/

namespace Sys2Proof.Machine

/-! ### The verdict of R82 -/

section
variable (seq : Octet) (seqh : BitVec 7) (a b : Octet) (p csum : BitVec 16)

/-- The two checks that R82 makes of every row: octet 5 is half of octet 3 (R71), and the checksum field is the checksum
of octets 0 to 11 (R75). -/
abbrev ChecksPass : Prop := seqhOctet seqh = seq >>> 1 ∧ checksum16 (frameCover seq (seqhOctet seqh) a b p) = csum

theorem frameVerdict_none : frameVerdict seq seqh a b p csum none = .notProducible := rfl

theorem frameVerdict_some (r : CommandRequest) : frameVerdict seq seqh a b p csum (some r) =
    if ChecksPass seq seqh a b p csum then .producible seq r else .notProducible := by
  simp only [frameVerdict, seqOctetsAgree, frameCsumOk, Bool.and_eq_true, beq_iff_eq]

/-- A frame is reported under its own sequence octet and request, or as one the engine cannot have produced. -/
theorem frameVerdict_cases (request : Option CommandRequest) :
    frameVerdict seq seqh a b p csum request = .notProducible ∨
      ∃ r, request = some r ∧ frameVerdict seq seqh a b p csum request = .producible seq r := by
  cases request with
  | none => exact .inl rfl
  | some r =>
    rw [frameVerdict_some]
    split
    · exact .inr ⟨r, rfl, rfl⟩
    · exact .inl rfl

/-- A request is reported exactly where it is the frame's and the two checks pass. -/
theorem frameVerdict_eq_producible_iff (request : Option CommandRequest) (r : CommandRequest) :
    frameVerdict seq seqh a b p csum request = .producible seq r ↔
      ChecksPass seq seqh a b p csum ∧ request = some r := by
  cases request with
  | none => simp only [frameVerdict_none, reduceCtorEq, and_false]
  | some own =>
    rw [frameVerdict_some]
    split
    · next passes => rw [and_iff_right passes, FrameReport.producible.injEq, and_iff_right rfl, Option.some.injEq]
    · next fails => exact iff_of_false nofun fun both => fails both.1

end

/-! ### The payloads that R82 accepts -/

/-- The volume payloads are the registers of the codec (43_volume_codec.md R189). -/
theorem volumePayload_iff (p : BitVec 16) :
    volumePayload p = true ↔ p = 0x4120#16 ∨ ∃ K : Nat, 20 ≤ K ∧ K ≤ 256 ∧ p = signedMag K := by
  rw [← exists_dbToRegister_eq_iff]
  constructor
  · intro accepted
    obtain ⟨level, rfl⟩ := exists_level_of_volumePayload accepted
    exact ⟨level.toInt, rfl⟩
  · rintro ⟨h, rfl⟩
    exact volumePayload_dbToRegister h

theorem outputIndexOf_eq_some_iff (p : BitVec 16) (i : BitVec 4) : outputIndexOf p = some i ↔ p = outputPayload i := by
  constructor
  · exact fun found => (outputPayload_of_outputIndexOf found).symm
  · rintro rfl
    exact outputIndexOf_outputPayload i

/-! ### The four rows: one report each (R72 to R74) -/

section
variable (seq : Octet) (seqh : BitVec 7) (csum : BitVec 16) (s : State)

theorem exec_cmdTogglePower (a : Bool) : exec (.cmdTogglePower seq seqh a csum) s =
    .next (observe (.report (classifyTogglePower seq seqh a csum)) s) := rfl

theorem exec_cmdToggleMute (a : Bool) : exec (.cmdToggleMute seq seqh a csum) s =
    .next (observe (.report (classifyToggleMute seq seqh a csum)) s) := rfl

theorem exec_cmdSetVolume (p : BitVec 16) : exec (.cmdSetVolume seq seqh p csum) s =
    .next (observe (.report (classifySetVolume seq seqh p csum)) s) := rfl

theorem exec_cmdSetOutput (sel : BitVec 5) : exec (.cmdSetOutput seq seqh sel csum) s =
    .next (observe (.report (classifySetOutput seq seqh sel csum)) s) := rfl

theorem classifySetVolume_cases (p : BitVec 16) :
    classifySetVolume seq seqh p csum = .producible seq (.volume p) ∨
      classifySetVolume seq seqh p csum = .notProducible := by
  obtain no | ⟨r, own, yes⟩ := frameVerdict_cases seq seqh 0x00#8 0x04#8 p csum
    (if volumePayload p then some (.volume p) else none)
  · exact .inr no
  · obtain ⟨-, same⟩ := Option.ite_none_right_eq_some.mp own
    cases same
    exact .inl yes

theorem classifySetVolume_eq_producible_iff (p : BitVec 16) :
    classifySetVolume seq seqh p csum = .producible seq (.volume p) ↔
      ChecksPass seq seqh 0x00#8 0x04#8 p csum ∧ volumePayload p = true := by
  rw [classifySetVolume, frameVerdict_eq_producible_iff, Option.ite_none_right_eq_some, and_iff_left rfl]

theorem classifySetOutput_cases (sel : BitVec 5) :
    classifySetOutput seq seqh sel csum = .notProducible ∨
      ∃ i, classifySetOutput seq seqh sel csum = .producible seq (.output i) := by
  obtain no | ⟨r, own, yes⟩ := frameVerdict_cases seq seqh 0x00#8 0x05#8 (selPayload sel) csum
    ((outputIndexOf (selPayload sel)).map .output)
  · exact .inl no
  · obtain ⟨i, -, rfl⟩ := Option.map_eq_some_iff.mp own
    exact .inr ⟨i, yes⟩

theorem classifySetOutput_eq_producible_iff (sel : BitVec 5) (i : BitVec 4) :
    classifySetOutput seq seqh sel csum = .producible seq (.output i) ↔
      ChecksPass seq seqh 0x00#8 0x05#8 (selPayload sel) csum ∧ selPayload sel = outputPayload i := by
  have own : (outputIndexOf (selPayload sel)).map CommandRequest.output = some (.output i) ↔
      selPayload sel = outputPayload i := by
    rw [Option.map_eq_some_iff, ← outputIndexOf_eq_some_iff]
    simp only [CommandRequest.output.injEq, exists_eq_right]
  rw [classifySetOutput, frameVerdict_eq_producible_iff, own]

end

/-- Settles O37: the two checks, and the payloads that the codec answers. -/
theorem volumeFramesAreClassified : Obligations.VolumeFramesAreClassified := by
  refine fun seq seqh p csum s => ⟨classifySetVolume seq seqh p csum, exec_cmdSetVolume ..,
    classifySetVolume_cases .., ?_⟩
  rw [classifySetVolume_eq_producible_iff, volumePayload_iff]
  exact and_assoc

/-- Settles O38: the two checks, and the index whose payload the frame has. -/
theorem outputFramesAreClassified : Obligations.OutputFramesAreClassified := by
  refine fun seq seqh sel csum s => ⟨classifySetOutput seq seqh sel csum, exec_cmdSetOutput ..,
    classifySetOutput_cases .., fun i => ?_⟩
  rw [classifySetOutput_eq_producible_iff]
  exact and_assoc

/-- Settles O36: a toggle row gives its request alone, so that the two checks decide. -/
theorem toggleFramesAreClassified : Obligations.ToggleFramesAreClassified := by
  intro seq seqh a csum s o5 o6
  constructor
  · rw [exec_cmdTogglePower, classifyTogglePower, frameVerdict_some]
    rfl
  · rw [exec_cmdToggleMute, classifyToggleMute, frameVerdict_some]
    rfl

/-! ### A step, by what is presented (R8, R230) -/

section
variable {s : State} {rest : List Input}

theorem step_of_nothing (hp : s.pending = []) : step s = .next s := by
  simp only [step, hp]

theorem step_of_reset (hp : s.pending = .reset :: rest) : step s = .next (applyReset (setPending rest s)) := by
  simp only [step, hp]

theorem step_of_decode_error {e : Encoded} {why : DecodeError} (hp : s.pending = .present e :: rest)
    (hd : decode e = .error why) : step s = takeUndecodable why (setPending rest s) := by
  simp only [step, hp, hd]

end

theorem takeUndecodable_of_no_request {why : DecodeError} (legal : why.illegal = false)
    (other : why ≠ .notCommandFrame) (s : State) : takeUndecodable why s = .refused (.notARequest why) := by
  rw [takeUndecodable, if_neg (Bool.eq_false_iff.mp legal), if_neg other]

theorem takeUndecodable_notCommandFrame (s : State) :
    takeUndecodable .notCommandFrame s = .next (observe (.report .notProducible) s) := rfl

theorem sameRegisters_applyReset (s : State) : SameRegisters State.reset (applyReset s) := by
  constructor <;> rfl

/-- Settles O6: with no input to take, the step answers its own state (R8). -/
theorem nothingPresentedChangesNothing : Obligations.NothingPresentedChangesNothing :=
  fun _ => step_of_nothing

/-- Settles O7: the two reasons left out are the ones that `takeUndecodable` does not refuse. -/
theorem transactionThatIsNoRequestIsRefused : Obligations.TransactionThatIsNoRequestIsRefused := by
  intro s e rest why hp hd legal other
  rw [step_of_decode_error hp hd, takeUndecodable_of_no_request legal other]

/-- Settles O10: the input is taken, then every register is put at its reset value. -/
theorem resetInputRestoresTheRegisters : Obligations.ResetInputRestoresTheRegisters :=
  fun _ _ hp => ⟨_, step_of_reset hp, sameRegisters_applyReset _, rfl, rfl, rfl⟩

/-! ### A presented frame -/

/-- The decoder of frames has one reason to refuse (R78, R82). -/
theorem eq_notCommandFrame_of_decodeFrame {os : List Octet} {why : DecodeError} (h : decodeFrame os = .error why) :
    why = .notCommandFrame := by
  unfold decodeFrame at h
  split at h
  · cases h; rfl
  split at h
  · simp only at h
    iterate 4 (split at h; · cases h)
    cases h; rfl
  · cases h; rfl

/-- A frame decodes to one of the four CMDFRAME rows, and the row reports what the classifier says of the frame. -/
theorem exec_of_decodeFrame {os : List Octet} {i : Instr} (h : decodeFrame os = .ok i) (s : State) :
    exec i s = .next (observe (.report (classifyFrame os)) s) := by
  have isFrame : encode i = .frame os := (encode_of_decodeFrame h).1
  rw [classifyFrame, h]
  cases i with
  | cmdTogglePower _ _ _ _ | cmdToggleMute _ _ _ _ | cmdSetVolume _ _ _ _ | cmdSetOutput _ _ _ _ => rfl
  | crc16 _ | sendTogglePower | decodeStatus _ _ | rxTimeout | sendSetVolume _ | sendSetOutput _ | db2reg _
    | sendToggleMute | reg2db _ => cases isFrame

theorem classifyFrame_of_decodeFrame_error {os : List Octet} {why : DecodeError} (h : decodeFrame os = .error why) :
    classifyFrame os = .notProducible := by
  rw [classifyFrame, h]

/-- Settles O8: a frame that decodes is executed as its row, any other is reported by the step itself. -/
theorem presentedFramesAreClassified : Obligations.PresentedFramesAreClassified := by
  intro s os rest hp
  show step s = .next (observe (.report (classifyFrame os)) (setPending rest s))
  cases decoded : decodeFrame os with
  | ok i => rw [step_of_decode hp decoded, exec_of_decodeFrame decoded]
  | error why =>
    obtain rfl := eq_notCommandFrame_of_decodeFrame decoded
    rw [step_of_decode_error hp decoded, takeUndecodable_notCommandFrame,
      classifyFrame_of_decodeFrame_error decoded]

end Sys2Proof.Machine
end
